-- ==== Sys2Proof/Word.lean ====
section
/-! DEFINITION. The words of the serial transport block (00_scope section 4, "Widths that are not parameters"). Every quantity is
unsigned (00_scope section 5.1). -/

namespace Sys2Proof

/-- A byte: 8 bits. -/
abbrev Byte := BitVec 8

/-- A 16-bit value: the CRC. -/
abbrev Hword := BitVec 16

/-- A sequence or acknowledgment number: 3 bits, so that `+ 1` wraps modulo 8 (R128). -/
abbrev Seq := BitVec 3

/-- A duration or pacing time in microseconds (assumption 9). -/
abbrev Micros := Nat

end Sys2Proof
end

