-- ==== Sys2Proof/Config.lean ====
section
/-! DEFINITION. The constants of 00_scope R3 (table 4a), the parameters of R4 (table 4b) as one configuration record, and the FREE
VALUES: what the spec leaves open, as constants without a body, so that no proof can use a value of them. -/

namespace Sys2Proof

/-! ## Constants (R3) -/

/-- MARKER, C0. -/
def markerByte : Byte := 0xC0#8
/-- ESC, DB. -/
def escByte : Byte := 0xDB#8
/-- ESC_MARKER, DC. -/
def escMarkerByte : Byte := 0xDC#8
/-- ESC_ESC, DD. -/
def escEscByte : Byte := 0xDD#8
/-- HDR_LEN. -/
def hdrLen : Nat := 4
/-- CRC_LEN. -/
def crcLen : Nat := 2
/-- MIN_PKT = HDR_LEN + CRC_LEN. -/
def minPkt : Nat := hdrLen + crcLen
/-- PAYLOAD_MAX. -/
def payloadMax : Nat := 512
/-- MAX_WIRE: two markers and every raw byte escaped. -/
def maxWire : Nat := 2 + 2 * (hdrLen + payloadMax + crcLen)
/-- CRC_INIT. -/
def crcInit : Hword := 0xFFFF#16
/-- MAX_ATTEMPTS. -/
def maxAttempts : Nat := 4
/-- TYPE_INIT. -/
def typeInitCode : Nat := 1
/-- TYPE_START. -/
def typeStartCode : Nat := 3
/-- TYPE_DATA. -/
def typeDataCode : Nat := 4
/-- TYPE_STOP_DATA. -/
def typeStopDataCode : Nat := 5

/-! ## What the host does after an operation of its own -/

/-- One task of a pseudo-operation's expansion (30_encoding R73: "RT.SEND calls and waits"; 43 R173: progress events). -/
inductive HostTask where
  /-- `RT.SEND(type, payload)`. -/
  | send (type : Nat) (payload : List Byte)
  /-- A pacing wait of the host. -/
  | wait (time : Micros)
  /-- `emit PROGRESS` after `sent` of `total` chunks. -/
  | progress (sent total : Nat)
deriving DecidableEq, Repr

/-- The update mode of `send_start_dfu`: "softdevice / bootloader / application, independently selectable" (R172). The bit values
are not in the source (91 N10). -/
structure UpdateMode where
  softdevice : Bool
  bootloader : Bool
  application : Bool
deriving DecidableEq, Repr

/-! ## Parameters (R4) -/

/-- HDR_CSUM_MODE (D3). -/
inductive CsumMode where
  | ocsum
  | notsum
  | negsum
deriving DecidableEq, Repr

/-- The open parameters of R4. It stands in State and no step changes it, so a statement about every state is about every
value of every parameter (assumption 7). ACK_TIMEOUT and PKT_MAX_SIZE are given at RT.OPEN (R18) and stand in the session. -/
structure Config where
  /-- CRC_POLY (D1). -/
  crcPoly : Hword
  /-- HDR_CSUM_MODE (D3). -/
  hdrCsumMode : CsumMode
  /-- TX_ACK (D5): the table of a function from `seq` to 3 bits. -/
  txAck : Vector Seq 8
  /-- TX_DIP (D6). -/
  txDip : Bool
  /-- TX_RP (D6). -/
  txRp : Bool
  /-- RX_BUF_CAP (D16); `none` is unbounded. -/
  rxBufCap : Option Nat
  /-- FLASH_PAGE_SIZE (D20). -/
  flashPageSize : Nat
  /-- PER_PAGE_ERASE_TIME (D20). -/
  perPageEraseTime : Micros
  /-- PER_WORD_WRITE_TIME (D20). -/
  perWordWriteTime : Micros
deriving DecidableEq, Repr

/-! ## Free values -/

/-- FLASH_PAGE_SIZE less one: OPEN in R4 (assumption 8); a page has at least one byte. -/
opaque Free.flashPageSizeLessOne : Nat
/-- PER_PAGE_ERASE_TIME: OPEN in R4 (assumption 8). -/
opaque Free.perPageEraseTime : Micros
/-- PER_WORD_WRITE_TIME: OPEN in R4 (assumption 8). -/
opaque Free.perWordWriteTime : Micros
/-- The text of the n-th event (R17, U11; assumption 21). -/
opaque Free.message : Nat → String
/-- The START payload's length, at most PAYLOAD_MAX (91 N10; assumption 22). -/
opaque Free.startPayloadLength : UpdateMode → Option Nat → Option Nat → Option Nat → Fin 513
/-- The START payload's bytes (91 N10; assumption 22). -/
opaque Free.startPayloadByte : UpdateMode → Option Nat → Option Nat → Option Nat → Nat → Byte
/-- Whether the percentage of chunks sent is rounded up (91 N11; assumption 23). -/
opaque Free.percentRoundsUp : Nat → Nat → Bool
/-- The done flag of a PROGRESS event (91 N11; assumption 23). -/
opaque Free.progressDone : Nat → Nat → Bool
/-- Whether the pacing wait of an eighth packet comes before its progress event (91 N11; assumption 23). -/
opaque Free.paceBeforeProgress : Nat → Bool
/-- Whether an empty image sends its STOP_DATA packet (91 N11; assumption 23). -/
opaque Free.emptyImageSendsStop : Bool
/-- What the page write time has over `(page / 4)` whole words, for a page size and a word write time, where the page size is no multiple
of 4: at most one word more (R173; assumption 35). -/
opaque Free.pageWriteRest : Nat → (wordTime : Micros) → Fin (wordTime + 1)
/-- What `send_validate_firmware` expands to at its n-th draw (R73, 91 N9; assumption 24). -/
opaque Free.validateTasks : Nat → List HostTask
/-- What `send_activate_firmware` sends at its n-th draw (R73, 91 N9; assumption 24). -/
opaque Free.activateTasks : Nat → List HostTask
/-- The activate wait of the n-th draw, from the flash parameters, the total image size and the softdevice size (R174, U3). Each draw
has its own value, so it may depend on what the spec leaves undefined too, "single-bank-only" (91 N9) among it (assumption 24). -/
opaque Free.activateWait : Nat → Config → Nat → Nat → Micros
/-- The host's accumulated total after a START of the given sum of sizes (R177; assumption 25). -/
opaque Free.totalAfterStart : Nat → Nat → Nat
/-- The host's accumulated total after an image of the given length (R177; assumption 25). -/
opaque Free.totalAfterFirmware : Nat → Nat → Nat

/-- R4's defaults; the OPEN host parameters are free constants. -/
def Config.default : Config where
  crcPoly := 0x1021#16
  hdrCsumMode := .ocsum
  txAck := #v[1#3, 2#3, 3#3, 4#3, 5#3, 6#3, 7#3, 0#3]
  txDip := true
  txRp := true
  rxBufCap := none
  flashPageSize := Free.flashPageSizeLessOne + 1
  perPageEraseTime := Free.perPageEraseTime
  perWordWriteTime := Free.perWordWriteTime

end Sys2Proof
end

