-- ==== Sys2Proof/Syntax.lean ====
section
/-! DEFINITION. The operations of the block: one constructor of `Instr` for each of the 44 rows of spec/opcode_table.json, and the
value types they speak of. -/

namespace Sys2Proof

/-- The six errors, a closed enumeration without numbers (60 R200, R207). -/
inductive Err where
  | malformedEscape
  | truncatedPacket
  | crcMismatch
  | timeout
  | retryExhausted
  | channelError
deriving DecidableEq, Repr

/-- The fields of a packet header (30 R63 to R65). -/
structure Header where
  seq : Seq
  ack : Seq
  /-- Integrity-present flag. -/
  dip : Bool
  /-- Reliable-packet flag. -/
  rp : Bool
  type : BitVec 4
  length : BitVec 12
  /-- Header checksum. -/
  hcs : Byte
deriving DecidableEq, Repr

/-- A Packet, the transient record that PK.DECODE returns (10_state R22, 41 R125). -/
structure Packet where
  header : Header
  payload : List Byte
  crc : Hword
deriving DecidableEq, Repr

/-- The received-byte classes of 30 R68. -/
inductive ByteClass where
  | marker
  | esc
  | literal (b : Byte)
  | escMarker
  | escEsc
  /-- A byte that follows an unpaired ESC and is neither DC nor DD, C0 included. -/
  | illegal
deriving DecidableEq, Repr

/-- The formats of the table's rows that have bits. -/
inductive Format where
  | wireByte
  | wireBytePair
  | headerWord
  | wireFrame
  | rawPacket
deriving DecidableEq, Repr

/-- The operation set (30 R71, R68, R67, R73; 20 R42, R43). -/
inductive Instr where
  -- received-byte classes (30 R68, R70)
  | marker
  | esc
  | escMarker
  | escEsc
  | literal (b : Byte)
  | illegalEscape (x : Byte)
  -- wire forms (30 R60, R62)
  | frame (content : List Byte)
  | rawPacket (u : List Byte)
  -- packet-type codes as header words (30 R67, R75)
  | typeInit (seq ack : Seq) (dip rp : Bool) (length : BitVec 12) (hcs : Byte)
  | typeStart (seq ack : Seq) (dip rp : Bool) (length : BitVec 12) (hcs : Byte)
  | typeData (seq ack : Seq) (dip rp : Bool) (length : BitVec 12) (hcs : Byte)
  | typeStopData (seq ack : Seq) (dip rp : Bool) (length : BitVec 12) (hcs : Byte)
  | typeReserved (seq ack : Seq) (dip rp : Bool) (type : BitVec 4) (length : BitVec 12) (hcs : Byte)
  -- Frame Codec (40 R100 to R103)
  | fcAppend (bytes : List Byte)
  | fcDecode
  | fcEncode (bytes : List Byte)
  | fcDecodeEscapes (bytes : List Byte)
  -- Packet Codec (41 R120 to R126); numeric operands are plain numbers, checked by the operation
  | pkCrc16 (bytes : List Byte) (start : Option Hword)
  | pkHdrCsum (b0 b1 b2 : Byte)
  | pkHdrPack (seq ack dip rp type length : Nat)
  | pkHdrUnpack (h0 h1 h2 h3 : Byte)
  | pkBuild (type : Nat) (payload : List Byte) (seq : Nat)
  | pkDecode (frame : List Byte)
  | pkAckAccepts (a s : Nat)
  -- Reliable Transport (42 R140, R141, R151)
  | rtOpen (ackTimeout : Micros) (pktMaxSize : Nat)
  | rtSend (type : Nat) (payload : List Byte)
  | rtClose
  -- internal transitions (42 R142 to R150)
  | tTransmit
  | tRxByte
  | tFrameAck
  | tFrameNak
  | tFrameErr
  | tTimeout
  | tRetry
  | tExhaust
  | tDone
  | tChanErr
  -- the host's pseudo-operations (43 R171 to R174)
  | sendInitPacket (bytes : List Byte)
  | sendStartDfu (mode : UpdateMode) (softdeviceSize bootloaderSize appSize : Option Nat)
  | sendFirmware (image : List Byte)
  | sendValidateFirmware
  | sendActivateFirmware
  -- channel primitives (20 R42, R43)
  | chanRead
  | chanWrite (bytes : List Byte)
deriving DecidableEq, Repr

/-- One entry of a scenario (30 R72): an operation named by the host, or the bytes of a word in one of the table's formats, which
the block's decoder reads. -/
inductive Request where
  | op (i : Instr)
  | word (format : Format) (bytes : List Byte)
deriving DecidableEq, Repr

end Sys2Proof
end

