-- ==== Sys2Proof/Machine/Codec.lean ====
section
/-! DEFINITION. The Frame Codec's pure functions (40 R100 to R104): escaping, unescaping, cutting frames, and the byte classes of
30 R68. -/

namespace Sys2Proof.Machine

/-- The wire bytes of one raw byte (30 R61). -/
def escapeByte (b : Byte) : List Byte :=
  if b = markerByte then [escByte, escMarkerByte]
  else if b = escByte then [escByte, escEscByte]
  else [b]

/-- FC.ENCODE (R102). -/
def encodeEscapes : List Byte → List Byte
  | [] => []
  | b :: bs => escapeByte b ++ encodeEscapes bs

/-- One more byte in front of an unescaped content; an error stays the error (R103: "no partial output"). -/
def consByte (b : Byte) : Except Err (List Byte) → Except Err (List Byte)
  | .ok bs => .ok (b :: bs)
  | .error e => .error e

/-- The scan of R103; the flag says that the byte before was an unpaired ESC (the first column of 30 R68). -/
def unescape : Bool → List Byte → Except Err (List Byte)
  | false, [] => .ok []
  | true, [] => .error .malformedEscape
  | false, b :: bs => if b = escByte then unescape true bs else consByte b (unescape false bs)
  | true, b :: bs =>
    if b = escMarkerByte then consByte markerByte (unescape false bs)
    else if b = escEscByte then consByte escByte (unescape false bs)
    else .error .malformedEscape

/-- FC.DECODE_ESCAPES (R103). -/
def decodeEscapes (bytes : List Byte) : Except Err (List Byte) := unescape false bytes

/-- The bytes before the first MARKER and the bytes after it; none where there is no MARKER. -/
def splitMarker : List Byte → Option (List Byte × List Byte)
  | [] => none
  | b :: bs =>
    if b = markerByte then some ([], bs)
    else match splitMarker bs with
      | none => none
      | some (before, after) => some (b :: before, after)

/-- A frame as it stands in the buffer: opening marker, content, closing marker (90 C2). -/
def delimit (content : List Byte) : List Byte := markerByte :: content ++ [markerByte]

/-- The content of a frame: all but its first and last byte. -/
def frameContent (frame : List Byte) : List Byte := frame.tail.dropLast

/-- The loop of R101, at most `fuel` times around. -/
def cutFrames : Nat → List Byte → List (List Byte) × List Byte
  | 0, buf => ([], buf)
  | fuel + 1, buf =>
    match splitMarker buf with
    | none => ([], buf)
    | some (_, afterOpen) =>
      match splitMarker afterOpen with
      | none => ([], buf)
      | some (content, rest) =>
        let more := cutFrames fuel rest
        (delimit content :: more.1, more.2)

/-- FC.DECODE on a buffer (R101): the complete frames, oldest first, and what stays. Each turn of the loop removes a byte, so the
buffer's length is turns enough. -/
def extractFrames (buf : List Byte) : List (List Byte) × List Byte := cutFrames buf.length buf

/-- The content so far of the frame a buffer holds open, after FC.DECODE has taken the complete ones (R104's store). -/
def openContent (buf : List Byte) : Option (List Byte) := (splitMarker (extractFrames buf).2).map (·.2)

/-- Whether a frame's content so far ends in an unpaired ESC; pairs are taken from the left (R103). An
illegal pair ends with its second byte, be that DB: the byte behind it follows no unpaired ESC. R68 does not say so (DESIGN CHOICE,
assumption 40). -/
def endsInEsc : Bool → List Byte → Bool
  | pending, [] => pending
  | true, _ :: bs => endsInEsc false bs
  | false, b :: bs => endsInEsc (b == escByte) bs

/-- Whether the next byte follows an unpaired ESC inside the same frame (30 R68). -/
def afterEsc (buf : List Byte) : Bool := endsInEsc false ((openContent buf).getD [])

/-- The class of a received byte (the table of 30 R68). -/
def classifyByte (pendingEsc : Bool) (b : Byte) : ByteClass :=
  if pendingEsc then
    if b = escMarkerByte then .escMarker
    else if b = escEscByte then .escEsc
    else .illegal
  else if b = markerByte then .marker
  else if b = escByte then .esc
  else .literal b

/-- What a received byte produces (the effect column of 30 R68). -/
def producedBy : ByteClass → Except Err (List Byte)
  | .marker => .ok []
  | .esc => .ok []
  | .literal b => .ok [b]
  | .escMarker => .ok [markerByte]
  | .escEsc => .ok [escByte]
  | .illegal => .error .malformedEscape

/-! ## The byte-serial deframer (R104) -/

/-- The two states of R104's machine; OPEN holds the store. -/
inductive Deframer where
  | hunt
  | opened (store : List Byte)
deriving DecidableEq, Repr

/-- One received byte in the deframer: the frame it hands over, if any, and the next state. -/
def deframerStep (b : Byte) : Deframer → Option (List Byte) × Deframer
  | .hunt => if b = markerByte then (none, .opened []) else (none, .hunt)
  | .opened store => if b = markerByte then (some (delimit store), .hunt) else (none, .opened (store ++ [b]))

/-- The frames a byte sequence makes the deframer hand over, and where it ends. -/
def deframerRun : List Byte → Deframer → List (List Byte) × Deframer
  | [], d => ([], d)
  | b :: bs, d =>
    let r := deframerStep b d
    let more := deframerRun bs r.2
    (r.1.toList ++ more.1, more.2)

end Sys2Proof.Machine
end

