-- ==== Sys2Proof/Machine/Flags.lean ====
section
/-! DEFINITION. The integrity computations. The block has no condition codes (10_state R21); what it computes in their place is the
CRC (41 R120), the header checksum (41 R121) and the acknowledgment test (41 R126). -/

namespace Sys2Proof.Machine

/-- One shift of R120's inner loop. -/
def crcShift (poly crc : Hword) : Hword :=
  if crc.getLsbD 15 then (crc <<< 1) ^^^ poly else crc <<< 1

/-- `n` shifts. -/
def crcShifts (poly : Hword) : Nat → Hword → Hword
  | 0, crc => crc
  | n + 1, crc => crcShifts poly n (crcShift poly crc)

/-- One byte of R120's outer loop: exclusive-or into the high byte, then eight shifts. -/
def crcByte (poly crc : Hword) (b : Byte) : Hword :=
  crcShifts poly 8 (crc ^^^ (b.setWidth 16 <<< 8))

/-- PK.CRC16 from a start value (R120). -/
def crc16 (poly : Hword) : List Byte → Hword → Hword
  | [], crc => crc
  | b :: bs, crc => crc16 poly bs (crcByte poly crc b)

/-- One turn of R121's `while`: the end-around carry. -/
def foldCarry (s : Nat) : Nat := if s > 0xFF then s % 256 + s / 256 else s

/-- PK.HDR_CSUM (R121). The sum is at most 765, so the `while` runs at most twice (R121, corner cases). -/
def hdrCsum (mode : CsumMode) (b0 b1 b2 : Byte) : Byte :=
  let s := b0.toNat + b1.toNat + b2.toNat
  match mode with
  | .ocsum => BitVec.ofNat 8 (foldCarry (foldCarry s))
  | .notsum => ~~~ BitVec.ofNat 8 s
  | .negsum => - BitVec.ofNat 8 s

/-- PK.ACK_ACCEPTS (R126): `a = (s + 1) mod 8`; 3 bits wrap (R128). -/
def ackAccepts (a s : Seq) : Bool := a == s + 1#3

end Sys2Proof.Machine
end

