-- ==== Sys2Proof/Machine/Operands.lean ====
section
/-! DEFINITION. The operand forms: the header's fields in its bytes (30 R63 to R65, R74, R75), the domains of the host port's numeric
operands (93 U5, U13), and the payloads of the host's pseudo-operations (43 R171 to R173). -/

namespace Sys2Proof.Machine

/-! ## Header fields -/

/-- Header byte 0 (R63): `rp` bit 7, `dip` bit 6, `ack` bits 5:3, `seq` bits 2:0. -/
def headerByte0 (seq ack : Seq) (dip rp : Bool) : Byte :=
  (BitVec.ofBool rp ++ BitVec.ofBool dip ++ ack ++ seq).cast (by decide)

/-- Header byte 1 (R64): `length[3:0]` bits 7:4, `type` bits 3:0. -/
def headerByte1 (type : BitVec 4) (length : BitVec 12) : Byte :=
  (length.extractLsb' 0 4 ++ type).cast (by decide)

/-- Header byte 2 (R64): `length[11:4]`. -/
def headerByte2 (length : BitVec 12) : Byte := length.extractLsb' 4 8

/-- The header bytes of given fields, whatever the checksum byte. -/
def headerBytes (h : Header) : List Byte :=
  [headerByte0 h.seq h.ack h.dip h.rp, headerByte1 h.type h.length, headerByte2 h.length, h.hcs]

/-- PK.HDR_UNPACK (41 R123): total, the checksum is not checked. -/
def hdrUnpack (h0 h1 h2 h3 : Byte) : Header where
  seq := h0.extractLsb' 0 3
  ack := h0.extractLsb' 3 3
  dip := h0.getLsbD 6
  rp := h0.getLsbD 7
  type := h1.extractLsb' 0 4
  length := (h2 ++ h1.extractLsb' 4 4).cast (by decide)
  hcs := h3

/-- PK.HDR_PACK (41 R122) of fields in range. -/
def hdrPack (mode : CsumMode) (seq ack : Seq) (dip rp : Bool) (type : BitVec 4) (length : BitVec 12) : List Byte :=
  let b0 := headerByte0 seq ack dip rp
  let b1 := headerByte1 type length
  let b2 := headerByte2 length
  [b0, b1, b2, hdrCsum mode b0 b1 b2]

/-- The four header bytes as one 32-bit little-endian word (30 R75). -/
def headerWordOf (b0 b1 b2 b3 : Byte) : BitVec 32 := (b3 ++ b2 ++ b1 ++ b0).cast (by decide)

/-- The length field of a raw packet's bytes. -/
def rawLengthField (u : List Byte) : Nat :=
  (hdrUnpack (u.getD 0 0#8) (u.getD 1 0#8) (u.getD 2 0#8) (u.getD 3 0#8)).length.toNat

/-! ## Operand domains -/

/-- The operands PK.HDR_PACK takes (R122); outside them it is refused. -/
def hdrPackDomain (seq ack dip rp type length : Nat) : Bool :=
  decide (seq ≤ 7 ∧ ack ≤ 7 ∧ dip ≤ 1 ∧ rp ≤ 1 ∧ type ≤ 15 ∧ length ≤ 4095)

/-- The operands RT.SEND takes (R141). -/
def sendDomain (type : Nat) (payload : List Byte) : Bool := decide (type ≤ 15 ∧ payload.length ≤ payloadMax)

/-- The operands PK.BUILD takes (R124). -/
def buildDomain (type : Nat) (payload : List Byte) (seq : Nat) : Bool :=
  sendDomain type payload && decide (seq ≤ 7)

/-- The operand PK.DECODE takes (R125): at least two bytes, the first and the last C0. A C0 between them does not put it outside: R125's
"as `FC.DECODE` returns it" and D22 leave that open (DESIGN CHOICE, assumption 41). -/
def frameDomain (frame : List Byte) : Bool :=
  decide (2 ≤ frame.length ∧ frame.head? = some markerByte ∧ frame.getLast? = some markerByte)

/-- The operands PK.ACK_ACCEPTS takes (R126). -/
def ackDomain (a s : Nat) : Bool := decide (a ≤ 7 ∧ s ≤ 7)

/-- The operands RT.OPEN takes (R18, 93 U13). -/
def openDomain (ackTimeout : Micros) (pktMaxSize : Nat) : Bool :=
  decide (0 < ackTimeout ∧ 1 ≤ pktMaxSize ∧ pktMaxSize ≤ payloadMax)

/-! ## Payloads and pacing of the host (43 R171 to R173) -/

/-- `ceil(a / b)` for `b > 0`. -/
def ceilDiv (a b : Nat) : Nat := (a + b - 1) / b

/-- The payload of `send_init_packet` (R171): "zero-padded by two trailing bytes". -/
def initPayload (bytes : List Byte) : List Byte := bytes ++ [0x00#8, 0x00#8]

/-- The payload of `send_start_dfu` (R172): its layout is a free value (assumption 22). -/
def startPayload (mode : UpdateMode) (softdevice bootloader app : Option Nat) : List Byte :=
  (List.range (Free.startPayloadLength mode softdevice bootloader app).val).map
    (Free.startPayloadByte mode softdevice bootloader app)

/-- `total_size` (R172): "the sum of the three sizes, an absent size counting as 0". -/
def totalSize (softdevice bootloader app : Option Nat) : Nat :=
  softdevice.getD 0 + bootloader.getD 0 + app.getD 0

/-- The floor of the erase wait: 0.5 s (R172). -/
def eraseFloor : Micros := 500000

/-- `erase_wait` (R172). -/
def eraseWait (cfg : Config) (total : Nat) : Micros :=
  max eraseFloor (ceilDiv total cfg.flashPageSize * cfg.perPageEraseTime)

/-- The page write time (R173): `(FLASH_PAGE_SIZE / 4) × PER_WORD_WRITE_TIME`. For a page size that is no multiple of 4 the spec does
not say whether or how `/` rounds: the time is then free between the quotient rounded down and rounded up (assumption 35). -/
def pageWriteTime (cfg : Config) : Micros :=
  if cfg.flashPageSize % 4 = 0 then cfg.flashPageSize / 4 * cfg.perWordWriteTime
  else cfg.flashPageSize / 4 * cfg.perWordWriteTime + (Free.pageWriteRest cfg.flashPageSize cfg.perWordWriteTime).val

/-- The number of chunks of an image (R173). -/
def chunkCount (size : Nat) (image : List Byte) : Nat := ceilDiv image.length size

/-- The chunk with index `k`, counted from 0 (R173 counts from 1). -/
def chunk (size : Nat) (image : List Byte) (k : Nat) : List Byte := (image.drop (k * size)).take size

/-- The tasks after DATA packet `sent` of `total` (R173): the pacing wait after every eighth, the progress event after each; which
comes first is free (assumption 23). -/
def afterPacket (cfg : Config) (sent total : Nat) : List HostTask :=
  if sent % 8 = 0 then
    if Free.paceBeforeProgress sent then [.wait (pageWriteTime cfg), .progress sent total]
    else [.progress sent total, .wait (pageWriteTime cfg)]
  else [.progress sent total]

/-- The tasks of chunk `k` (from 0). -/
def chunkTasks (cfg : Config) (size : Nat) (image : List Byte) (k : Nat) : List HostTask :=
  .send typeDataCode (chunk size image k) :: afterPacket cfg (k + 1) (chunkCount size image)

/-- The expansion of `send_firmware` (R173). What an empty image does is free (assumption 23). -/
def firmwareTasks (cfg : Config) (size : Nat) (image : List Byte) : List HostTask :=
  if image = [] && !Free.emptyImageSendsStop then []
  else (List.range (chunkCount size image)).flatMap (chunkTasks cfg size image) ++ [.send typeStopDataCode []]

/-- The 0 to 100 percentage of chunks sent (R173): the exact share where it is whole, else that share rounded down or up
(assumption 23). -/
def progressPercent (sent total : Nat) : Nat :=
  if sent * 100 % total ≠ 0 && Free.percentRoundsUp sent total then sent * 100 / total + 1 else sent * 100 / total

end Sys2Proof.Machine
end

