-- ==== Sys2Proof/Machine/Packet.lean ====
section
/-! DEFINITION. Building and decoding a packet (41 R124, R125), for operands in their domain. -/

namespace Sys2Proof.Machine

/-- The `ack` a built packet carries: TX_ACK(seq) (R124, D5). -/
def txAckOf (cfg : Config) (seq : Seq) : Seq := cfg.txAck.get seq.toFin

/-- Header and payload of a built packet (R124). -/
def packetBody (cfg : Config) (type : BitVec 4) (payload : List Byte) (seq : Seq) : List Byte :=
  hdrPack cfg.hdrCsumMode seq (txAckOf cfg seq) cfg.txDip cfg.txRp type (BitVec.ofNat 12 payload.length) ++ payload

/-- The CRC trailer of a body, low byte first (30 R66). -/
def crcTrailer (c : Hword) : List Byte := [c.extractLsb' 0 8, c.extractLsb' 8 8]

/-- The raw packet of a built packet (R124). -/
def rawPacketOf (cfg : Config) (type : BitVec 4) (payload : List Byte) (seq : Seq) : List Byte :=
  packetBody cfg type payload seq ++ crcTrailer (crc16 cfg.crcPoly (packetBody cfg type payload seq) crcInit)

/-- PK.BUILD (R124) of operands in range: the wire frame. -/
def buildFrame (cfg : Config) (type : BitVec 4) (payload : List Byte) (seq : Seq) : List Byte :=
  delimit (encodeEscapes (rawPacketOf cfg type payload seq))

/-- The last two bytes of a raw packet, low byte first (30 R74). -/
def rawCrc (u : List Byte) : Hword := (u.getD (u.length - 1) 0#8 ++ u.getD (u.length - 2) 0#8).cast (by decide)

/-- PK.DECODE from the unescaped bytes on (R125): minimum size, length field, CRC, in this order (D23). -/
def decodeRaw (cfg : Config) (u : List Byte) : Except Err Packet :=
  if u.length < minPkt then .error .truncatedPacket
  else
    let h := hdrUnpack (u.getD 0 0#8) (u.getD 1 0#8) (u.getD 2 0#8) (u.getD 3 0#8)
    if h.length.toNat ≠ u.length - minPkt then .error .truncatedPacket
    else if h.dip && crc16 cfg.crcPoly (u.take (u.length - crcLen)) crcInit != rawCrc u then .error .crcMismatch
    else .ok { header := h, payload := (u.drop hdrLen).take h.length.toNat, crc := rawCrc u }

/-- PK.DECODE of a frame's content (R125): unescape, then decode the raw packet. -/
def decodeContent (cfg : Config) (content : List Byte) : Except Err Packet :=
  match decodeEscapes content with
  | .error e => .error e
  | .ok u => decodeRaw cfg u

/-- PK.DECODE of a frame in its domain: strip the markers, decode the content (R125). -/
def decodeFrame (cfg : Config) (frame : List Byte) : Except Err Packet := decodeContent cfg (frameContent frame)

end Sys2Proof.Machine
end

