-- ==== Sys2Proof/WellFormed.lean ====
section
/-! DEFINITION. Which terms of `Instr` are operations the spec admits: the ranges of the operands and the exclusions of the encodings.
`exec` gives ill-formed terms the answer the spec gives them (mostly `refuse`, 93 U5). -/

namespace Sys2Proof

/-- A raw packet as 30 R62 lays it out: 6 to 518 bytes, and the length field is the payload's length. -/
def rawPacketWf (u : List Byte) : Bool :=
  decide (minPkt ≤ u.length ∧ u.length ≤ minPkt + payloadMax ∧ Machine.rawLengthField u = u.length - minPkt)

/-- A frame's content as 30 R60 lays it out: no marker in it, and a raw packet when unescaped. -/
def frameContentWf (content : List Byte) : Bool :=
  decide (markerByte ∉ content) &&
    match Machine.decodeEscapes content with
    | .ok u => rawPacketWf u
    | .error _ => false

/-- The four packet-type codes the spec names (30 R67); every other type is reserved. -/
def namedType (type : BitVec 4) : Bool := type == 1#4 || type == 3#4 || type == 4#4 || type == 5#4

/-- The well-formed operations. -/
def Instr.wf : Instr → Bool
  | .marker => true
  | .esc => true
  | .escMarker => true
  | .escEsc => true
  | .literal b => b != markerByte && b != escByte
  | .illegalEscape x => x != escMarkerByte && x != escEscByte
  | .frame content => frameContentWf content
  | .rawPacket u => rawPacketWf u
  | .typeInit _ _ _ _ _ _ => true
  | .typeStart _ _ _ _ _ _ => true
  | .typeData _ _ _ _ _ _ => true
  | .typeStopData _ _ _ _ _ _ => true
  | .typeReserved _ _ _ _ type _ _ => !namedType type
  | .fcAppend _ => true
  | .fcDecode => true
  | .fcEncode _ => true
  | .fcDecodeEscapes _ => true
  | .pkCrc16 _ _ => true
  | .pkHdrCsum _ _ _ => true
  | .pkHdrPack seq ack dip rp type length => Machine.hdrPackDomain seq ack dip rp type length
  | .pkHdrUnpack _ _ _ _ => true
  | .pkBuild type payload seq => Machine.buildDomain type payload seq
  | .pkDecode f => Machine.frameDomain f
  | .pkAckAccepts a s => Machine.ackDomain a s
  | .rtOpen ackTimeout pktMaxSize => Machine.openDomain ackTimeout pktMaxSize
  | .rtSend type payload => Machine.sendDomain type payload
  | .rtClose => true
  | .tTransmit => true
  | .tRxByte => true
  | .tFrameAck => true
  | .tFrameNak => true
  | .tFrameErr => true
  | .tTimeout => true
  | .tRetry => true
  | .tExhaust => true
  | .tDone => true
  | .tChanErr => true
  | .sendInitPacket bytes => decide ((Machine.initPayload bytes).length ≤ payloadMax)
  | .sendStartDfu _ _ _ _ => true
  | .sendFirmware _ => true
  | .sendValidateFirmware => true
  | .sendActivateFirmware => true
  | .chanRead => true
  | .chanWrite _ => true

end Sys2Proof
end

