-- ==== Sys2Proof/Decode.lean ====
section
/-! DEFINITION. Decoding, total on any bytes and rejecting by name, and the encoder after it. Only the table's rows of the formats
wire_byte, wire_byte_pair, header_word, wire_frame and raw_packet have bits; the named operations have none (30 R71, D19), so no word
decodes to them (assumption 12). -/

namespace Sys2Proof

/-- Why bytes are no word of a format. -/
inductive DecodeError where
  /-- The format has a fixed length, and these bytes have another. -/
  | wrongLength
  /-- A wire byte pair begins with ESC. -/
  | notEscapePair
  /-- A frame begins and ends with a marker. -/
  | notDelimited
  /-- A marker inside a frame's content closes the frame before its end (30 R68). -/
  | innerMarker
deriving DecidableEq, Repr

/-- A wire byte that no unpaired ESC precedes (30 R68). -/
def decodeWireByte (b : Byte) : Instr :=
  if b = markerByte then .marker else if b = escByte then .esc else .literal b

/-- Two wire bytes, the first in bits 15:8 of the table's match (30 R61, R68, R70). -/
def decodePair (b x : Byte) : Except DecodeError Instr :=
  if b ≠ escByte then .error .notEscapePair
  else if x = escMarkerByte then .ok .escMarker
  else if x = escEscByte then .ok .escEsc
  else .ok (.illegalEscape x)

/-- A header word by its type field (30 R67). -/
def headerInstr (h : Header) : Instr :=
  if h.type = 1#4 then .typeInit h.seq h.ack h.dip h.rp h.length h.hcs
  else if h.type = 3#4 then .typeStart h.seq h.ack h.dip h.rp h.length h.hcs
  else if h.type = 4#4 then .typeData h.seq h.ack h.dip h.rp h.length h.hcs
  else if h.type = 5#4 then .typeStopData h.seq h.ack h.dip h.rp h.length h.hcs
  else .typeReserved h.seq h.ack h.dip h.rp h.type h.length h.hcs

/-- A wire frame (30 R60): two markers and no marker between. Whatever stands between is let through, the contents that R70 calls
illegal too: receiving them has the effect R70 gives them (assumption 11). -/
def decodeWireFrame (f : List Byte) : Except DecodeError Instr :=
  if !Machine.frameDomain f then .error .notDelimited
  else if markerByte ∈ Machine.frameContent f then .error .innerMarker
  else .ok (.frame (Machine.frameContent f))

/-- The decoder: the bytes of a word in one of the table's formats. Any bytes are a raw packet to be decoded (30 R62); what is illegal
in them PK.DECODE says (30 R70). -/
def decode : Format → List Byte → Except DecodeError Instr
  | .wireByte, [b] => .ok (decodeWireByte b)
  | .wireByte, _ => .error .wrongLength
  | .wireBytePair, [b, x] => decodePair b x
  | .wireBytePair, _ => .error .wrongLength
  | .headerWord, [b0, b1, b2, b3] => .ok (headerInstr (Machine.hdrUnpack b0 b1 b2 b3))
  | .headerWord, _ => .error .wrongLength
  | .wireFrame, f => decodeWireFrame f
  | .rawPacket, u => .ok (.rawPacket u)

/-! ## The encoder -/

/-- The word of an operation that has bits, with its format; `none` for a named operation (D19). -/
def encode : Instr → Option (Format × List Byte)
  | .marker => some (.wireByte, [0xC0#8])
  | .esc => some (.wireByte, [0xDB#8])
  | .escMarker => some (.wireBytePair, [0xDB#8, 0xDC#8])
  | .escEsc => some (.wireBytePair, [0xDB#8, 0xDD#8])
  | .literal b => some (.wireByte, [b])
  | .illegalEscape x => some (.wireBytePair, [0xDB#8, x])
  | .frame content => some (.wireFrame, Machine.delimit content)
  | .rawPacket u => some (.rawPacket, u)
  | .typeInit seq ack dip rp length hcs => some (.headerWord, Machine.headerBytes ⟨seq, ack, dip, rp, 1#4, length, hcs⟩)
  | .typeStart seq ack dip rp length hcs => some (.headerWord, Machine.headerBytes ⟨seq, ack, dip, rp, 3#4, length, hcs⟩)
  | .typeData seq ack dip rp length hcs => some (.headerWord, Machine.headerBytes ⟨seq, ack, dip, rp, 4#4, length, hcs⟩)
  | .typeStopData seq ack dip rp length hcs => some (.headerWord, Machine.headerBytes ⟨seq, ack, dip, rp, 5#4, length, hcs⟩)
  | .typeReserved seq ack dip rp type length hcs => some (.headerWord, Machine.headerBytes ⟨seq, ack, dip, rp, type, length, hcs⟩)
  | .fcAppend _ => none
  | .fcDecode => none
  | .fcEncode _ => none
  | .fcDecodeEscapes _ => none
  | .pkCrc16 _ _ => none
  | .pkHdrCsum _ _ _ => none
  | .pkHdrPack _ _ _ _ _ _ => none
  | .pkHdrUnpack _ _ _ _ => none
  | .pkBuild _ _ _ => none
  | .pkDecode _ => none
  | .pkAckAccepts _ _ => none
  | .rtOpen _ _ => none
  | .rtSend _ _ => none
  | .rtClose => none
  | .tTransmit => none
  | .tRxByte => none
  | .tFrameAck => none
  | .tFrameNak => none
  | .tFrameErr => none
  | .tTimeout => none
  | .tRetry => none
  | .tExhaust => none
  | .tDone => none
  | .tChanErr => none
  | .sendInitPacket _ => none
  | .sendStartDfu _ _ _ _ => none
  | .sendFirmware _ => none
  | .sendValidateFirmware => none
  | .sendActivateFirmware => none
  | .chanRead => none
  | .chanWrite _ => none

/-! ## The table's own numbering -/

/-- The `n` low bytes of a number, lowest first. -/
def littleEndianBytes : Nat → Nat → List Byte
  | 0, _ => []
  | n + 1, w => BitVec.ofNat 8 w :: littleEndianBytes n (w / 256)

/-- The format and the bytes, in wire order, of a word numbered as spec/opcode_table.json numbers it: a wire byte; a pair as one
16-bit word with "first byte in bits 15:8 of match"; a header word `W = b0 | b1<<8 | b2<<16 | b3<<24` (30 R75). No other length is a
word with bits in the table. -/
def tableWord (nbits w : Nat) : Format × List Byte :=
  if nbits = 8 then (.wireByte, [BitVec.ofNat 8 w])
  else if nbits = 16 then (.wireBytePair, [BitVec.ofNat 8 (w / 256), BitVec.ofNat 8 w])
  else (.headerWord, littleEndianBytes (nbits / 8) w)

/-- What the decoder reads from a word of the table. -/
def decodeTableWord (nbits w : Nat) : Option Instr :=
  match decode (tableWord nbits w).1 (tableWord nbits w).2 with
  | .ok i => some i
  | .error _ => none

end Sys2Proof
end

