-- ==== Sys2Proof/Machine/State.lean ====
section
/-! DEFINITION. The state: the block's eight registers and its session configuration (10_state), the parameters (R4), and, because a
model of the block alone could not run, its ports with the environment behind them as plain data (assumption 1). -/

namespace Sys2Proof.Machine

/-- `arq_state` (10_state R12). -/
inductive ArqState where
  | closed
  | idle
  | sending
  | awaitingAck
  | acked
  | retrying
  | timedOut
  | failed
deriving DecidableEq, Repr

/-- `fail_reason` (10_state R16). -/
inductive FailReason where
  | noReason
  | retryExhausted
  | channelError
deriving DecidableEq, Repr

/-- The events of 10_state R17 and 43 R176. -/
inductive Event where
  | timeout (message : String)
  | progress (percent : Nat) (done : Bool) (message : String)
deriving DecidableEq, Repr

/-- The session's configuration values (10_state R18). -/
structure Session where
  /-- `cfg.ack_timeout`. -/
  ackTimeout : Micros
  /-- `cfg.pkt_max_size`. -/
  pktMaxSize : Nat
deriving DecidableEq, Repr

/-- The channel's answer to `open` (43 R178). -/
inductive OpenAnswer where
  | ok
  | error
deriving DecidableEq, Repr

/-- The channel's answer to `close`: "Any of the four calls may fail" (43 R178). -/
inductive CloseAnswer where
  | ok
  | error
deriving DecidableEq, Repr

/-- The channel's answer to `write`; on an error, how many of the bytes had reached the peer (20 R43, 93 U9). -/
inductive WriteAnswer where
  | ok
  | error (delivered : Nat)
deriving DecidableEq, Repr

/-- What a step of a wait can meet (42, environment inputs): `rx(b)`, `rx_none`, `rx_error`, `timeout`. -/
inductive RxInput where
  | byte (b : Byte)
  | nothing
  | error
  | timeout
deriving DecidableEq, Repr

/-- The channel and the timer, the environment's side (20 R42, R43; 43 R178; 60 R213). -/
structure Channel where
  /-- The block holds the handle: its `open` has succeeded and it has not called `close` since. A close from outside (70 R248) does not
  show here, only as a read or write that fails (DESIGN CHOICE, assumption 42). -/
  isOpen : Bool
  /-- The answers of `open` to come; with none listed it answers ok (assumption 2). -/
  openAnswers : List OpenAnswer
  /-- The answers of `close` to come; with none listed it answers ok (assumption 2). Nothing depends on them (assumption 37). -/
  closeAnswers : List CloseAnswer
  /-- The answers of `write` to come; with none listed it answers ok (assumption 2). -/
  writeAnswers : List WriteAnswer
  /-- `chan_rx` and the timer, in the order the waits meet them; with none listed nothing arrives (assumptions 2, 15). -/
  rxIn : List RxInput
  /-- `chan_tx`: the bytes handed to the peer, oldest first. -/
  tx : List Byte
deriving DecidableEq, Repr

/-- The host, outside the block (43). -/
structure HostSide where
  /-- The scenario still to come (30 R72). -/
  program : List Request
  /-- What is left of the pseudo-operation in hand (30 R73). -/
  tasks : List HostTask
  /-- "the accumulated total image size" (43 R177). It is kept over RT.CLOSE and RT.OPEN (assumption 36). -/
  total : Nat
  /-- "the softdevice size" (43 R177). It is kept over RT.CLOSE and RT.OPEN (assumption 36). -/
  softdevice : Nat
  /-- The pacing waits the host has made, oldest first (43 R172 to R174). -/
  waits : List Micros
deriving DecidableEq, Repr

/-- What an operation replies at the host port (30 R71). It is returned to the caller (10_state R21 c). -/
inductive Reply where
  /-- The operation replies nothing. -/
  | nothing
  /-- RT.SEND: ok. -/
  | ok
  /-- One named error (60 R200). -/
  | raised (e : Err)
  /-- Not accepted, nothing changed, and no error of the taxonomy (93 U5). -/
  | refused
  | bytes (bs : List Byte)
  | frames (fs : List (List Byte))
  | value16 (v : Hword)
  | byte (b : Byte)
  | header (h : Header)
  | packet (p : Packet)
  | truth (b : Bool)
  /-- A received wire byte's class, what it produces (30 R68), and the frames it completes. -/
  | received (cls : ByteClass) (produced : Except Err (List Byte)) (frames : List (List Byte))
  /-- What PK.DECODE makes of the frames that were completed. -/
  | decoded (results : List (Except Err Packet))
  /-- ChanRead: `byte(b)`. -/
  | readByte (b : Byte)
  /-- ChanRead: `none`. -/
  | readNone
  /-- ChanRead: `error`. -/
  | readError
  /-- ChanWrite: `ok`. -/
  | writeOk
  /-- ChanWrite: `error`. -/
  | writeError
deriving DecidableEq, Repr

/-- The whole machine. A register that holds no value is `none`: the spec's own condition of six registers at power-on and after RT.CLOSE
(10_state R25, 70 R230; 93 U6 "an option type"). No step from reset reads one (`Invariant`). -/
structure State where
  /-- The byte stream buffer (R10). -/
  rxbuf : List Byte
  /-- `seq_ctr` (R11). -/
  seqCtr : Option Seq
  /-- `arq_state` (R12). -/
  arqState : ArqState
  /-- `attempts` (R13). -/
  attempts : Option Nat
  /-- `tx_frame` (R14). -/
  txFrame : Option (List Byte)
  /-- `tx_seq` (R15). -/
  txSeq : Option Seq
  /-- `fail_reason` (R16). In `Closed` it holds no value (R25, 93 U6; assumption 38). -/
  failReason : Option FailReason
  /-- `events` (R17). -/
  events : List Event
  /-- `cfg.ack_timeout` and `cfg.pkt_max_size` (R18). -/
  session : Option Session
  /-- The host port's last reply (assumption 6). -/
  reply : Option Reply
  /-- The channel port with the environment behind it. -/
  chan : Channel
  /-- The host behind the host port. -/
  host : HostSide
  /-- The parameters (00_scope R4). -/
  config : Config
  /-- The model's own counter: how many free values have been drawn (assumptions 21, 24). -/
  freeCount : Nat
deriving DecidableEq, Repr

/-- The registers that can hold no value. -/
inductive Register where
  | seqCtr
  | attempts
  | txFrame
  | txSeq
  | failReason
  | session
deriving DecidableEq, Repr

/-- Where the machine stops with a fault. -/
inductive Fault where
  /-- A rule read a register that holds no value (10_state R25: "A register that holds no value must not be read", "A model should
  make such a read a fault, not a zero"; 93 U6; 92 D12). Raised by `readReg` and by the acknowledgment test, so by RT.SEND, the
  transitions and the host's `send_firmware`, in states no run reaches. Safe. -/
  | noValue (r : Register)
deriving DecidableEq, Repr

/-- Where the model gives a step no meaning. -/
inductive Refusal where
  /-- An instruction without a meaning yet; raised by no arm of this model. Safe. -/
  | notModelled (mnemonic : String)
  /-- A transition asked for in a state or with an input that R154 does not list for it ("Every pair not listed has no
  transition"); raised by the ten transitions, never by a step the block chooses itself. Safe. -/
  | noTransition
  /-- A received byte overruns a finite RX_BUF_CAP inside a wait (93 U8: "`refuse` to model it"); raised by the receive step of a
  wait. Safe. -/
  | rxBufOverflow
deriving DecidableEq, Repr

/-- Power-on (10_state R25, 70 R230 a: "all else without value"), with R4's default parameters and an environment of which nothing is said yet. -/
def State.reset : State where
  rxbuf := []
  seqCtr := none
  arqState := .closed
  attempts := none
  txFrame := none
  txSeq := none
  failReason := none
  events := []
  session := none
  reply := none
  chan := { isOpen := false, openAnswers := [], closeAnswers := [], writeAnswers := [], rxIn := [], tx := [] }
  host := { program := [], tasks := [], total := 0, softdevice := 0, waits := [] }
  config := Config.default
  freeCount := 0

end Sys2Proof.Machine
end

