-- ==== Sys2Proof/Machine/Ops.lean ====
section
/-! DEFINITION. The named operations over State that the meanings share: updates, replies, taking an error and returning from one
(60 R210, R211), the channel calls (43 R178), the receive step (42 R143), and the acceptance of a packet (42 R141). -/

namespace Sys2Proof.Machine

/-- The outcome of a meaning. -/
abbrev Result := Host.Outcome State Fault Refusal

/-! ## Updates -/

/-- Write `rxbuf`. -/
def State.withRxbuf (s : State) (v : List Byte) : State := { s with rxbuf := v }
/-- Write `seq_ctr`. -/
def State.withSeqCtr (s : State) (v : Option Seq) : State := { s with seqCtr := v }
/-- Write `arq_state`, the block's only control transfer (00_scope section 5.3). -/
def State.withArq (s : State) (v : ArqState) : State := { s with arqState := v }
/-- Write `attempts`. -/
def State.withAttempts (s : State) (v : Option Nat) : State := { s with attempts := v }
/-- Write `tx_frame`. -/
def State.withTxFrame (s : State) (v : Option (List Byte)) : State := { s with txFrame := v }
/-- Write `tx_seq`. -/
def State.withTxSeq (s : State) (v : Option Seq) : State := { s with txSeq := v }
/-- Write `fail_reason`. -/
def State.withFailReason (s : State) (v : Option FailReason) : State := { s with failReason := v }
/-- Write the event output. -/
def State.withEvents (s : State) (v : List Event) : State := { s with events := v }
/-- Write the configuration values. -/
def State.withSession (s : State) (v : Option Session) : State := { s with session := v }
/-- Write the host port's reply. -/
def State.withReply (s : State) (v : Option Reply) : State := { s with reply := v }
/-- Write the channel. -/
def State.withChan (s : State) (v : Channel) : State := { s with chan := v }
/-- Write the host. -/
def State.withHost (s : State) (v : HostSide) : State := { s with host := v }
/-- Write the count of free values. -/
def State.withFreeCount (s : State) (v : Nat) : State := { s with freeCount := v }
/-- Write what the waits will meet. -/
def State.withRxIn (s : State) (v : List RxInput) : State := s.withChan { s.chan with rxIn := v }

/-! ## Replies -/

/-- Reply and change nothing else. -/
def answer (s : State) (r : Reply) : Result := .next (s.withReply (some r))

/-- `refuse` (93 Part 1): the operation is not accepted and nothing changes (assumption 3). -/
def refuse (s : State) : Result := answer s .refused

/-- Reply bytes or the error that ended the operation. -/
def answerBytes (s : State) : Except Err (List Byte) → Result
  | .ok bs => answer s (.bytes bs)
  | .error e => answer s (.raised e)

/-- Reply a Packet or the error that ended the operation. -/
def answerPacket (s : State) : Except Err Packet → Result
  | .ok p => answer s (.packet p)
  | .error e => answer s (.raised e)

/-- No transition from here (42 R154; assumption 4). -/
def noTransition : Result := .refused .noTransition

/-- Read a register: go on with its value, or fault where it holds none (10_state R25, 93 U6). -/
def readReg {α : Type} (r : Register) (value : Option α) (use : α → Result) : Result :=
  match value with
  | some a => use a
  | none => .fault (.noValue r)

/-! ## Events -/

/-- `emit` (00_scope section 5.3): append an event whose message text is the next free value (R17, U11). -/
def emitWithMessage (event : String → Event) (s : State) : State :=
  (s.withEvents (s.events ++ [event (Free.message s.freeCount)])).withFreeCount (s.freeCount + 1)

/-! ## Taking an error, and the return from one (60 R210, R211) -/

/-- The fatal end of a session: the reason is stored, the machine fails, and RT.SEND replies the error. The channel is not closed and
`chan.isOpen` is kept until RT.CLOSE, also where the failure comes from a close from outside (70 R248; assumption 42). -/
def failWith (reason : FailReason) (e : Err) (s : State) : State :=
  ((s.withFailReason (some reason)).withArq .failed).withReply (some (.raised e))

/-- What the block does when an error occurs inside an RT.SEND: the table of 60 R210. It saves nothing. -/
def enterError (e : Err) (s : State) : State :=
  match e with
  | .malformedEscape => s.withArq .retrying
  | .truncatedPacket => s.withArq .retrying
  | .crcMismatch => s.withArq .retrying
  | .timeout => (emitWithMessage .timeout (s.withSeqCtr (some 0#3))).withArq .timedOut
  | .retryExhausted => failWith .retryExhausted .retryExhausted s
  | .channelError => failWith .channelError .channelError s

/-- The return from a recoverable error (60 R211): the same frame is sent again. Nothing is restored because nothing was saved. -/
def returnFromError (s : State) : State := s.withArq .sending

/-- The error a stored reason stands for. -/
def FailReason.error : FailReason → Option Err
  | .noReason => none
  | .retryExhausted => some .retryExhausted
  | .channelError => some .channelError

/-- The reply of RT.SEND in `Failed` (42 R141, R152): the stored error; nothing else is touched. -/
def raiseStored (s : State) : Result :=
  readReg .failReason (s.failReason.bind FailReason.error) fun e => answer s (.raised e)

/-! ## The channel's calls (43 R178) -/

/-- What `ChanRead()` answers (20 R42). -/
inductive ReadAnswer where
  | byte (b : Byte)
  | nothing
  | error
deriving DecidableEq, Repr

/-- `ChanRead()`: the head of the receive stream is taken (20 R42). A timer expiry that comes first is not the channel's: the read
answers `none` and leaves it (assumption 30). -/
def readChannel (s : State) : ReadAnswer × State :=
  match s.chan.rxIn with
  | [] => (.nothing, s)
  | .byte b :: rest => (.byte b, s.withRxIn rest)
  | .nothing :: rest => (.nothing, s.withRxIn rest)
  | .error :: rest => (.error, s.withRxIn rest)
  | .timeout :: _ => (.nothing, s)

/-- `ChanWrite(bs)` (20 R43): all the bytes and `ok`, or some prefix of them and `error` (93 U9). -/
def writeChannel (bs : List Byte) (s : State) : Bool × State :=
  match s.chan.writeAnswers with
  | [] => (true, s.withChan { s.chan with tx := s.chan.tx ++ bs })
  | .ok :: rest => (true, s.withChan { s.chan with tx := s.chan.tx ++ bs, writeAnswers := rest })
  | .error n :: rest => (false, s.withChan { s.chan with tx := s.chan.tx ++ bs.take n, writeAnswers := rest })

/-- The channel's `open` (43 R178). -/
def openChannel (s : State) : Bool × State :=
  match s.chan.openAnswers with
  | [] => (true, s.withChan { s.chan with isOpen := true })
  | .ok :: rest => (true, s.withChan { s.chan with isOpen := true, openAnswers := rest })
  | .error :: rest => (false, s.withChan { s.chan with openAnswers := rest })

/-- The channel's `close` (43 R178). Its answer is taken; a close that fails releases the handle all the same and raises nothing (42
R151: "guaranteed release of the underlying handle", "Errors: none"; assumption 37). -/
def closeChannel (s : State) : State :=
  s.withChan { s.chan with isOpen := false, closeAnswers := s.chan.closeAnswers.tail }

/-! ## The byte stream buffer (40 R100, R101) -/

/-- `bytes` more fit into `rxbuf` (RX_BUF_CAP, D16). -/
def fits (s : State) (bytes : List Byte) : Bool :=
  match s.config.rxBufCap with
  | none => true
  | some cap => decide (s.rxbuf.length + bytes.length ≤ cap)

/-- FC.APPEND then FC.DECODE: the frames completed, and the state with what stays in `rxbuf`. -/
def appendAndDecode (bytes : List Byte) (s : State) : List (List Byte) × State :=
  let r := extractFrames (s.rxbuf ++ bytes)
  (r.1, s.withRxbuf r.2)

/-! ## The receive step of a wait (42 R143 to R146) -/

/-- What one received byte decides. -/
inductive Verdict where
  /-- No frame is complete. -/
  | noFrame
  /-- A frame decodes and its `ack` is the expected one. -/
  | accepted
  /-- A frame decodes and its `ack` is another. -/
  | wrongAck
  /-- A frame does not decode. -/
  | notDecoded (e : Err)
  /-- A frame decodes and `tx_seq` holds no value to compare with. -/
  | noTxSeq
deriving DecidableEq, Repr

/-- The verdict on a complete frame (R143's inner case). -/
def frameVerdict (cfg : Config) (txSeq : Option Seq) (frame : List Byte) : Verdict :=
  match decodeFrame cfg frame with
  | .error e => .notDecoded e
  | .ok p =>
    match txSeq with
    | none => .noTxSeq
    | some q => if ackAccepts p.header.ack q then .accepted else .wrongAck

/-- The verdict on a received byte (R143): the first frame decides (R155; assumption 16). -/
def waitVerdict (b : Byte) (s : State) : Verdict :=
  match (extractFrames (s.rxbuf ++ [b])).1 with
  | [] => .noFrame
  | f :: _ => frameVerdict s.config s.txSeq f

/-- What a verdict does (R144 to R146). -/
def applyVerdict (v : Verdict) (s : State) : Result :=
  match v with
  | .noFrame => .next s
  | .accepted => .next (s.withArq .acked)
  | .wrongAck => .next (s.withArq .retrying)
  | .notDecoded e => .next (enterError e s)
  | .noTxSeq => .fault (.noValue .txSeq)

/-- `rx(b)` in `AwaitingAck` (R143): FC.APPEND, FC.DECODE, and the verdict. -/
def waitByte (b : Byte) (s : State) : Result :=
  if fits s [b] then applyVerdict (waitVerdict b s) (appendAndDecode [b] s).2
  else .refused .rxBufOverflow

/-- Several bytes the channel delivers, one R143 step each, for as long as the wait lasts; what comes after its end stays unread at
the head of the channel (42 R143, 20 R47). -/
def feedWait : List Byte → State → Result
  | [], s => .next s
  | b :: bs, s =>
    if s.arqState = .awaitingAck then
      match waitByte b s with
      | .next s' => feedWait bs s'
      | .fault f => .fault f
      | .refused r => .refused r
    else .next (s.withRxIn ((b :: bs).map .byte ++ s.chan.rxIn))

/-- Wire bytes the block receives (assumption 10): inside a wait by the transport (R143), else by the Frame Codec alone, which
replies. -/
def receiveBytes (bytes : List Byte) (replyOf : List (List Byte) → Reply) (s : State) : Result :=
  if s.arqState = .awaitingAck then feedWait bytes s
  else if fits s bytes then
    let r := appendAndDecode bytes s
    answer r.2 (replyOf r.1)
  else refuse s

/-- The reply to received wire bytes that end in `last`: its class in its place (30 R68), what it produces, and the frames. -/
def receivedReply (s : State) (before : List Byte) (last : Byte) (frames : List (List Byte)) : Reply :=
  let cls := classifyByte (afterEsc (s.rxbuf ++ before)) last
  .received cls (producedBy cls) frames

/-- One wire byte, or a pair, is received (30 R68). -/
def receiveWire (before : List Byte) (last : Byte) (s : State) : Result :=
  receiveBytes (before ++ [last]) (receivedReply s before last) s

/-- A whole frame is received, whatever its content: outside a wait each frame it completes goes through PK.DECODE, which says what
is illegal in it (10_state R22, 41 R125, 30 R70). -/
def receiveFrame (content : List Byte) (s : State) : Result :=
  receiveBytes (delimit content) (fun fs => .decoded (fs.map (decodeFrame s.config))) s

/-- A header word passes through the Packet Codec (41 R123): its fields, the type unchanged (30 R70). -/
def receiveHeader (h : Header) (s : State) : Result :=
  match headerBytes h with
  | [b0, b1, b2, b3] => answer s (.header (hdrUnpack b0 b1 b2 b3))
  | _ => refuse s

/-! ## Sending (42 R141) -/

/-- The acceptance of a logical packet (R141): the one place where `seq_ctr` is read and advanced (90 C1, C6). -/
def acceptPacket (type : BitVec 4) (payload : List Byte) (s : State) : Result :=
  readReg .seqCtr s.seqCtr fun q =>
    .next ((((((s.withTxSeq (some q)).withSeqCtr (some (q + 1#3))).withTxFrame
      (some (buildFrame s.config type payload q))).withAttempts (some 0)).withArq .sending).withReply none)

/-- RT.SEND (R141) by the state it meets. -/
def sendPacket (type : Nat) (payload : List Byte) (s : State) : Result :=
  match s.arqState with
  | .idle => if sendDomain type payload then acceptPacket (BitVec.ofNat 4 type) payload s else refuse s
  | .failed => raiseStored s
  | .closed => refuse s
  | .sending => refuse s
  | .awaitingAck => refuse s
  | .acked => refuse s
  | .retrying => refuse s
  | .timedOut => refuse s

/-! ## The host's pseudo-operations (43) -/

/-- Put tasks in front of the host's. -/
def pushTasks (tasks : List HostTask) (s : State) : State := s.withHost { s.host with tasks := tasks ++ s.host.tasks }

/-- A pseudo-operation of several RT.SEND calls begins, its reply outstanding; outside `Idle` it meets what its first RT.SEND would
meet (assumption 31). -/
def startTasks (tasks : State → Result) (s : State) : Result :=
  match s.arqState with
  | .idle => tasks s
  | .failed => raiseStored s
  | .closed => refuse s
  | .sending => refuse s
  | .awaitingAck => refuse s
  | .acked => refuse s
  | .retrying => refuse s
  | .timedOut => refuse s

end Sys2Proof.Machine
end

