-- ==== Sys2Proof/Machine/ChannelPort.lean ====
section
/-! DEFINITION. The meanings of the channel primitives (20 R42, R43). -/

namespace Sys2Proof.Machine

/-- ChanRead (R42): destructive; answers `byte(b)`, `none` or `error`. -/
def execChanRead (s : State) : Result :=
  let r := readChannel s
  match r.1 with
  | .byte b => answer r.2 (.readByte b)
  | .nothing => answer r.2 .readNone
  | .error => answer r.2 .readError

/-- ChanWrite (R43): answers `ok` or `error`. -/
def execChanWrite (bytes : List Byte) (s : State) : Result :=
  let w := writeChannel bytes s
  if w.1 then answer w.2 .writeOk else answer w.2 .writeError

end Sys2Proof.Machine
end

