-- ==== Sys2Proof/Machine/FrameCodec.lean ====
section
/-! DEFINITION. The meanings of the Frame Codec's operations (40 R100 to R103). -/

namespace Sys2Proof.Machine

/-- FC.APPEND (R100). A finite RX_BUF_CAP that would be exceeded: refused (93 U8; assumption 17). -/
def execFcAppend (bytes : List Byte) (s : State) : Result :=
  if fits s bytes then answer (s.withRxbuf (s.rxbuf ++ bytes)) .nothing else refuse s

/-- FC.DECODE (R101). -/
def execFcDecode (s : State) : Result :=
  let r := appendAndDecode [] s
  answer r.2 (.frames r.1)

/-- FC.ENCODE (R102). -/
def execFcEncode (bytes : List Byte) (s : State) : Result := answer s (.bytes (encodeEscapes bytes))

/-- FC.DECODE_ESCAPES (R103). -/
def execFcDecodeEscapes (bytes : List Byte) (s : State) : Result := answerBytes s (decodeEscapes bytes)

end Sys2Proof.Machine
end

