-- ==== Sys2Proof/Machine/HostOps.lean ====
section
/-! DEFINITION. The meanings of the host's pseudo-operations (30 R73, 43 R171 to R174). They stand outside the block and act on it by
RT.SEND alone. -/

namespace Sys2Proof.Machine

/-- send_init_packet (R171): `RT.SEND(1, bytes ++ [00, 00])`. -/
def execSendInitPacket (bytes : List Byte) (s : State) : Result := sendPacket typeInitCode (initPayload bytes) s

/-- send_start_dfu (R172): `RT.SEND(3, start payload)`, then the erase wait. The host's session fields are written when the call begins,
before its RT.SEND, and only in `Idle` (R177 gives no moment; DESIGN CHOICE, assumption 39). -/
def execSendStartDfu (mode : UpdateMode) (softdevice bootloader app : Option Nat) (s : State) : Result :=
  let total := totalSize softdevice bootloader app
  startTasks (fun s =>
    sendPacket typeStartCode (startPayload mode softdevice bootloader app)
      (s.withHost { s.host with
        tasks := .wait (eraseWait s.config total) :: s.host.tasks
        total := Free.totalAfterStart s.host.total total
        softdevice := softdevice.getD 0 })) s

/-- send_firmware (R173): chunks of `cfg.pkt_max_size`, each an `RT.SEND(4, chunk)`, then `RT.SEND(5, [])`. The host's total is written
when the call begins, before its first RT.SEND, and only in `Idle` (R177 gives no moment; DESIGN CHOICE, assumption 39). -/
def execSendFirmware (image : List Byte) (s : State) : Result :=
  startTasks (fun s =>
    readReg .session s.session fun cfg =>
      .next ((s.withHost { s.host with
        tasks := firmwareTasks s.config cfg.pktMaxSize image ++ s.host.tasks
        total := Free.totalAfterFirmware s.host.total image.length }).withReply none)) s

/-- send_validate_firmware (R174, R73): packets the source does not describe (assumption 24). -/
def execSendValidateFirmware (s : State) : Result :=
  startTasks (fun s =>
    .next (((pushTasks (Free.validateTasks s.freeCount) s).withFreeCount (s.freeCount + 1)).withReply none)) s

/-- send_activate_firmware (R174, R73): packets the source does not describe, then the activate wait (assumption 24). -/
def execSendActivateFirmware (s : State) : Result :=
  startTasks (fun s =>
    .next (((pushTasks
      (Free.activateTasks s.freeCount ++ [.wait (Free.activateWait s.freeCount s.config s.host.total s.host.softdevice)]) s).withFreeCount
        (s.freeCount + 1)).withReply none)) s

end Sys2Proof.Machine
end

