-- ==== Sys2Proof/Machine/PacketCodec.lean ====
section
/-! DEFINITION. The meanings of the Packet Codec's operations (41 R120 to R126): pure functions, replied. Operands outside their
domain are refused (92 D22, D24). -/

namespace Sys2Proof.Machine

/-- PK.CRC16 (R120): the start value is CRC_INIT when omitted. -/
def execPkCrc16 (bytes : List Byte) (start : Option Hword) (s : State) : Result :=
  answer s (.value16 (crc16 s.config.crcPoly bytes (start.getD crcInit)))

/-- PK.HDR_CSUM (R121). -/
def execPkHdrCsum (b0 b1 b2 : Byte) (s : State) : Result :=
  answer s (.byte (hdrCsum s.config.hdrCsumMode b0 b1 b2))

/-- PK.HDR_PACK (R122). -/
def execPkHdrPack (seq ack dip rp type length : Nat) (s : State) : Result :=
  if hdrPackDomain seq ack dip rp type length then
    answer s (.bytes (hdrPack s.config.hdrCsumMode (BitVec.ofNat 3 seq) (BitVec.ofNat 3 ack) (dip == 1) (rp == 1)
      (BitVec.ofNat 4 type) (BitVec.ofNat 12 length)))
  else refuse s

/-- PK.HDR_UNPACK (R123). -/
def execPkHdrUnpack (h0 h1 h2 h3 : Byte) (s : State) : Result := answer s (.header (hdrUnpack h0 h1 h2 h3))

/-- PK.BUILD (R124). -/
def execPkBuild (type : Nat) (payload : List Byte) (seq : Nat) (s : State) : Result :=
  if buildDomain type payload seq then
    answer s (.bytes (buildFrame s.config (BitVec.ofNat 4 type) payload (BitVec.ofNat 3 seq)))
  else refuse s

/-- PK.DECODE (R125). -/
def execPkDecode (frame : List Byte) (s : State) : Result :=
  if frameDomain frame then answerPacket s (decodeFrame s.config frame) else refuse s

/-- PK.ACK_ACCEPTS (R126). -/
def execPkAckAccepts (a q : Nat) (s : State) : Result :=
  if ackDomain a q then answer s (.truth (ackAccepts (BitVec.ofNat 3 a) (BitVec.ofNat 3 q))) else refuse s

end Sys2Proof.Machine
end

