-- ==== Sys2Proof/Machine/Transition.lean ====
section
/-! DEFINITION. The meanings of the ten internal transitions (42 R142 to R150, the table of R154). Each is one indivisible step and
takes the environment's input it is about; where its condition does not hold there is no transition (assumption 4). -/

namespace Sys2Proof.Machine

/-- T.TRANSMIT (R142): one attempt; a write that fails is a ChannelError. -/
def execTTransmit (s : State) : Result :=
  if s.arqState = .sending then
    readReg .attempts s.attempts fun n =>
      readReg .txFrame s.txFrame fun frame =>
        let w := writeChannel frame (s.withAttempts (some (n + 1)))
        if w.1 then .next (w.2.withArq .awaitingAck) else .next (enterError .channelError w.2)
  else noTransition

/-- A transition out of a wait on a received byte whose verdict is one of `wanted` (R143). -/
def onReceivedByte (wanted : Verdict → Bool) (s : State) : Result :=
  if s.arqState = .awaitingAck then
    match s.chan.rxIn with
    | .byte b :: rest => if wanted (waitVerdict b s) then waitByte b (s.withRxIn rest) else noTransition
    | _ => noTransition
  else noTransition

/-- A received byte that completes no frame. -/
def Verdict.completesNone : Verdict → Bool
  | .noFrame => true
  | _ => false

/-- T.RX_BYTE (R143): nothing arrives, or a byte that completes no frame; the wait goes on. -/
def execTRxByte (s : State) : Result :=
  if s.arqState = .awaitingAck then
    match s.chan.rxIn with
    | [] => .next s
    | .nothing :: rest => .next (s.withRxIn rest)
    | .byte _ :: _ => onReceivedByte Verdict.completesNone s
    | .error :: _ => noTransition
    | .timeout :: _ => noTransition
  else noTransition

/-- T.FRAME_ACK (R144). The acknowledgment test reads `tx_seq`. -/
def execTFrameAck (s : State) : Result :=
  onReceivedByte (fun v => decide (v = .accepted ∨ v = .noTxSeq)) s

/-- T.FRAME_NAK (R145). The acknowledgment test reads `tx_seq`. -/
def execTFrameNak (s : State) : Result :=
  onReceivedByte (fun v => decide (v = .wrongAck ∨ v = .noTxSeq)) s

/-- A received byte whose frame does not decode. -/
def Verdict.isNotDecoded : Verdict → Bool
  | .notDecoded _ => true
  | _ => false

/-- T.FRAME_ERR (R146). -/
def execTFrameErr (s : State) : Result := onReceivedByte Verdict.isNotDecoded s

/-- T.TIMEOUT (R147). -/
def execTTimeout (s : State) : Result :=
  if s.arqState = .awaitingAck then
    match s.chan.rxIn with
    | .timeout :: rest => .next (enterError .timeout (s.withRxIn rest))
    | _ => noTransition
  else noTransition

/-- What R148 does after a failed attempt, by the count of attempts. -/
def afterFailedAttempt (act : Nat → Result) (s : State) : Result :=
  if s.arqState = .retrying ∨ s.arqState = .timedOut then readReg .attempts s.attempts act
  else noTransition

/-- T.RETRY (R148): `attempts ≤ 3`. -/
def execTRetry (s : State) : Result :=
  afterFailedAttempt (fun n => if n < maxAttempts then .next (returnFromError s) else noTransition) s

/-- T.EXHAUST (R148): `attempts > 3`. -/
def execTExhaust (s : State) : Result :=
  afterFailedAttempt (fun n => if n < maxAttempts then noTransition else .next (enterError .retryExhausted s)) s

/-- T.DONE (R149): RT.SEND replies ok. -/
def execTDone (s : State) : Result :=
  if s.arqState = .acked then .next ((s.withArq .idle).withReply (some .ok)) else noTransition

/-- T.CHAN_ERR (R150): a read fails during a wait. -/
def execTChanErr (s : State) : Result :=
  if s.arqState = .awaitingAck then
    match s.chan.rxIn with
    | .error :: rest => .next (enterError .channelError (s.withRxIn rest))
    | _ => noTransition
  else noTransition

end Sys2Proof.Machine
end

