-- ==== Sys2Proof/Machine/Transport.lean ====
section
/-! DEFINITION. The meanings of the Reliable Transport's host-port operations (42 R140, R141, R151). -/

namespace Sys2Proof.Machine

/-- The session reset of R140. -/
def resetSession (ackTimeout : Micros) (pktMaxSize : Nat) (s : State) : State :=
  (((((s.withRxbuf []).withSeqCtr (some 0#3)).withAttempts (some 0)).withFailReason (some .noReason)).withSession
    (some ⟨ackTimeout, pktMaxSize⟩)).withArq .idle

/-- RT.OPEN (R140). An open that fails raises ChannelError and writes nothing else (60 R210). The host's own session fields are the
host's, and the block does not write them (43 R177; assumption 36). -/
def execRtOpen (ackTimeout : Micros) (pktMaxSize : Nat) (s : State) : Result :=
  if s.arqState = .closed && openDomain ackTimeout pktMaxSize then
    let r := openChannel s
    if r.1 then answer (resetSession ackTimeout pktMaxSize r.2) .nothing
    else answer r.2 (.raised .channelError)
  else refuse s

/-- RT.SEND (R141): acceptance; the transitions then run until `Idle` or `Failed`. -/
def execRtSend (type : Nat) (payload : List Byte) (s : State) : Result := sendPacket type payload s

/-- The end of a session (R151, 10_state R25): `rxbuf` is empty and every other register but `events` holds no value. -/
def dropSession (s : State) : State :=
  (((((((s.withRxbuf []).withSeqCtr none).withAttempts none).withTxFrame none).withTxSeq none).withFailReason none).withSession
    none).withArq .closed

/-- RT.CLOSE (R151). In `Closed` too `rxbuf` is empty afterwards (R25, 70 R230, 90 C8, 92 D17); the channel is not closed again
(assumption 19). Inside an RT.SEND it is refused (D24). The host's own session fields are kept (assumption 36). -/
def execRtClose (s : State) : Result :=
  match s.arqState with
  | .idle => answer (dropSession (closeChannel s)) .nothing
  | .failed => answer (dropSession (closeChannel s)) .nothing
  | .closed => answer (dropSession s) .nothing
  | .sending => refuse s
  | .awaitingAck => refuse s
  | .acked => refuse s
  | .retrying => refuse s
  | .timedOut => refuse s

end Sys2Proof.Machine
end

