-- ==== Sys2Proof/Machine/WireForms.lean ====
section
/-! DEFINITION. The meanings of the rows that have bits: the received-byte classes (30 R68, R70), the wire forms (30 R60, R62) and the
packet-type codes (30 R67, R75). What receiving them means outside a wait is assumption 10; for the wire forms, assumption 11. -/

namespace Sys2Proof.Machine

/-- MARKER (R68): opens a frame if none is open, closes the open one otherwise (R101). -/
def execMarker (s : State) : Result := receiveWire [] markerByte s

/-- ESC (R68): a prefix, it produces nothing by itself. -/
def execEsc (s : State) : Result := receiveWire [] escByte s

/-- ESC_MARKER (R68): the pair DB DC produces C0. -/
def execEscMarker (s : State) : Result := receiveWire [escByte] escMarkerByte s

/-- ESC_ESC (R68): the pair DB DD produces DB. -/
def execEscEsc (s : State) : Result := receiveWire [escByte] escEscByte s

/-- LITERAL (R68): the byte produces itself. -/
def execLiteral (b : Byte) (s : State) : Result := receiveWire [] b s

/-- ILLEGAL_ESCAPE (R70): DB and a byte that makes no pair with it, C0 included, which also closes the frame. -/
def execIllegalEscape (x : Byte) (s : State) : Result := receiveWire [escByte] x s

/-- FRAME (R60): a whole wire frame is received; a content that R70 calls illegal has the effect R70 gives it. -/
def execFrame (content : List Byte) (s : State) : Result := receiveFrame content s

/-- RAW_PACKET (R62): PK.DECODE from the unescaped bytes on (R125), with the errors R70 names for illegal bytes. -/
def execRawPacket (u : List Byte) (s : State) : Result := answerPacket s (decodeRaw s.config u)

/-- TYPE_INIT (R67). -/
def execTypeInit (seq ack : Seq) (dip rp : Bool) (length : BitVec 12) (hcs : Byte) (s : State) : Result :=
  receiveHeader ⟨seq, ack, dip, rp, 1#4, length, hcs⟩ s

/-- TYPE_START (R67). -/
def execTypeStart (seq ack : Seq) (dip rp : Bool) (length : BitVec 12) (hcs : Byte) (s : State) : Result :=
  receiveHeader ⟨seq, ack, dip, rp, 3#4, length, hcs⟩ s

/-- TYPE_DATA (R67). -/
def execTypeData (seq ack : Seq) (dip rp : Bool) (length : BitVec 12) (hcs : Byte) (s : State) : Result :=
  receiveHeader ⟨seq, ack, dip, rp, 4#4, length, hcs⟩ s

/-- TYPE_STOP_DATA (R67). -/
def execTypeStopData (seq ack : Seq) (dip rp : Bool) (length : BitVec 12) (hcs : Byte) (s : State) : Result :=
  receiveHeader ⟨seq, ack, dip, rp, 5#4, length, hcs⟩ s

/-- TYPE_RESERVED (R70): "both codecs pass any 4-bit value through unchanged". -/
def execTypeReserved (seq ack : Seq) (dip rp : Bool) (type : BitVec 4) (length : BitVec 12) (hcs : Byte) (s : State) : Result :=
  receiveHeader ⟨seq, ack, dip, rp, type, length, hcs⟩ s

end Sys2Proof.Machine
end

