-- ==== Sys2Proof/Machine/Dispatch.lean ====
section
/-! DEFINITION. One arm per operation. -/

namespace Sys2Proof.Machine

def exec (i : Instr) (s : State) : Host.Outcome State Fault Refusal :=
  match i with
  | .marker => Sys2Proof.Machine.execMarker s
  | .esc => Sys2Proof.Machine.execEsc s
  | .escMarker => Sys2Proof.Machine.execEscMarker s
  | .escEsc => Sys2Proof.Machine.execEscEsc s
  | .literal b => Sys2Proof.Machine.execLiteral b s
  | .illegalEscape x => Sys2Proof.Machine.execIllegalEscape x s
  | .frame content => Sys2Proof.Machine.execFrame content s
  | .rawPacket u => Sys2Proof.Machine.execRawPacket u s
  | .typeInit seq ack dip rp length hcs => Sys2Proof.Machine.execTypeInit seq ack dip rp length hcs s
  | .typeStart seq ack dip rp length hcs => Sys2Proof.Machine.execTypeStart seq ack dip rp length hcs s
  | .typeData seq ack dip rp length hcs => Sys2Proof.Machine.execTypeData seq ack dip rp length hcs s
  | .typeStopData seq ack dip rp length hcs => Sys2Proof.Machine.execTypeStopData seq ack dip rp length hcs s
  | .typeReserved seq ack dip rp type length hcs => Sys2Proof.Machine.execTypeReserved seq ack dip rp type length hcs s
  | .fcAppend bytes => Sys2Proof.Machine.execFcAppend bytes s
  | .fcDecode => Sys2Proof.Machine.execFcDecode s
  | .fcEncode bytes => Sys2Proof.Machine.execFcEncode bytes s
  | .fcDecodeEscapes bytes => Sys2Proof.Machine.execFcDecodeEscapes bytes s
  | .pkCrc16 bytes start => Sys2Proof.Machine.execPkCrc16 bytes start s
  | .pkHdrCsum b0 b1 b2 => Sys2Proof.Machine.execPkHdrCsum b0 b1 b2 s
  | .pkHdrPack seq ack dip rp type length => Sys2Proof.Machine.execPkHdrPack seq ack dip rp type length s
  | .pkHdrUnpack h0 h1 h2 h3 => Sys2Proof.Machine.execPkHdrUnpack h0 h1 h2 h3 s
  | .pkBuild type payload seq => Sys2Proof.Machine.execPkBuild type payload seq s
  | .pkDecode f => Sys2Proof.Machine.execPkDecode f s
  | .pkAckAccepts a q => Sys2Proof.Machine.execPkAckAccepts a q s
  | .rtOpen ackTimeout pktMaxSize => Sys2Proof.Machine.execRtOpen ackTimeout pktMaxSize s
  | .rtSend type payload => Sys2Proof.Machine.execRtSend type payload s
  | .rtClose => Sys2Proof.Machine.execRtClose s
  | .tTransmit => Sys2Proof.Machine.execTTransmit s
  | .tRxByte => Sys2Proof.Machine.execTRxByte s
  | .tFrameAck => Sys2Proof.Machine.execTFrameAck s
  | .tFrameNak => Sys2Proof.Machine.execTFrameNak s
  | .tFrameErr => Sys2Proof.Machine.execTFrameErr s
  | .tTimeout => Sys2Proof.Machine.execTTimeout s
  | .tRetry => Sys2Proof.Machine.execTRetry s
  | .tExhaust => Sys2Proof.Machine.execTExhaust s
  | .tDone => Sys2Proof.Machine.execTDone s
  | .tChanErr => Sys2Proof.Machine.execTChanErr s
  | .sendInitPacket bytes => Sys2Proof.Machine.execSendInitPacket bytes s
  | .sendStartDfu mode softdevice bootloader app => Sys2Proof.Machine.execSendStartDfu mode softdevice bootloader app s
  | .sendFirmware image => Sys2Proof.Machine.execSendFirmware image s
  | .sendValidateFirmware => Sys2Proof.Machine.execSendValidateFirmware s
  | .sendActivateFirmware => Sys2Proof.Machine.execSendActivateFirmware s
  | .chanRead => Sys2Proof.Machine.execChanRead s
  | .chanWrite bytes => Sys2Proof.Machine.execChanWrite bytes s

end Sys2Proof.Machine
end

