-- ==== Sys2Proof/Machine/Select.lean ====
section
/-! DEFINITION. What the machine does next. `arq_state` plays the part of a program counter (10_state R20): it says which internal
transition comes, and in `Closed`, `Idle` and `Failed` the host has the turn (42 R151, 20 R50). -/

namespace Sys2Proof.Machine

/-- What the next step is. -/
inductive Choice where
  /-- Run an instruction from a state. -/
  | run (i : Instr) (s : State)
  /-- Only the host or nobody acts. -/
  | stay (s : State)
deriving DecidableEq, Repr

/-- The host has the turn. -/
def hostHasTurn (a : ArqState) : Bool :=
  match a with
  | .closed => true
  | .idle => true
  | .failed => true
  | .sending => false
  | .awaitingAck => false
  | .acked => false
  | .retrying => false
  | .timedOut => false

/-- The transition out of a wait, by what the wait meets next (42 R143, R147, R150). -/
def waitInstr (s : State) : Instr :=
  match s.chan.rxIn with
  | [] => .tRxByte
  | .nothing :: _ => .tRxByte
  | .error :: _ => .tChanErr
  | .timeout :: _ => .tTimeout
  | .byte b :: _ =>
    match waitVerdict b s with
    | .noFrame => .tRxByte
    | .accepted => .tFrameAck
    | .wrongAck => .tFrameNak
    | .notDecoded _ => .tFrameErr
    | .noTxSeq => .tFrameAck

/-- The transition after a failed attempt (42 R148). -/
def retryInstr (s : State) : Instr :=
  match s.attempts with
  | some n => if n < maxAttempts then .tRetry else .tExhaust
  | none => .tRetry

/-- The instruction a request names or encodes. -/
def fetchRequest : Request → Except DecodeError Instr
  | .op i => .ok i
  | .word format bytes => decode format bytes

/-- One task of the host. -/
def runTask (t : HostTask) (s : State) : Choice :=
  match t with
  | .send type payload => .run (.rtSend type payload) s
  | .wait time => .stay (s.withHost { s.host with waits := s.host.waits ++ [time] })
  | .progress sent total =>
    .stay (emitWithMessage (.progress (progressPercent sent total) (Free.progressDone sent total)) s)

/-- The host's turn: the next task of the pseudo-operation in hand; a session that has failed or closed aborts it (43 R173, R175);
with none in hand, the next request of the program; with none left, the block sits (70 R230). Bytes that are no word of their format
are no operation: `refuse`, they are not accepted and nothing changes (93 U5, D22, D24; assumption 12). -/
def hostTurn (s : State) : Choice :=
  match s.host.tasks with
  | t :: ts =>
    if s.arqState = .idle then runTask t (s.withHost { s.host with tasks := ts })
    else .stay (s.withHost { s.host with tasks := [] })
  | [] =>
    match s.host.program with
    | [] => .stay s
    | r :: rs =>
      match fetchRequest r with
      | .ok i => .run i (s.withHost { s.host with program := rs })
      | .error _ => .stay ((s.withHost { s.host with program := rs }).withReply (some .refused))

/-- The next step. -/
def select (s : State) : Choice :=
  match s.arqState with
  | .sending => .run .tTransmit s
  | .awaitingAck => .run (waitInstr s) s
  | .acked => .run .tDone s
  | .retrying => .run (retryInstr s) s
  | .timedOut => .run (retryInstr s) s
  | .closed => hostTurn s
  | .idle => hostTurn s
  | .failed => hostTurn s

end Sys2Proof.Machine
end

