-- ==== Sys2Proof/Machine/Step.lean ====
section
/-! DEFINITION. One step of the machine, and where a word is put so that the next step runs it (assumption 13). -/

namespace Sys2Proof.Machine

/-- One step: run what `select` chooses. -/
def step (s : State) : Host.Outcome State Fault Refusal :=
  match select s with
  | .run i s' => exec i s'
  | .stay s' => .next s'

/-- `s` with a word of the table as the next request: at the head of the program, no task of the host before it, and the host's turn
(a state inside an RT.SEND is put back to `Idle`; reset needs no change of `arq_state`). -/
def State.withFetchWord (s : State) (nbits w : Nat) : State :=
  { s with
    arqState := if hostHasTurn s.arqState then s.arqState else .idle
    host := { s.host with
      program := .word (tableWord nbits w).1 (tableWord nbits w).2 :: s.host.program
      tasks := [] } }

end Sys2Proof.Machine
end

