-- ==== Sys2Proof/Safety.lean ====
section
/-! DEFINITION. What a good state and a safe step are, in the terms the statements use: the invariants of 10_state R26 and the rule
that a register without a value is not read (R25). -/

namespace Sys2Proof.Machine

/-- The block is inside an RT.SEND: one of the five states in which the host has no turn (42 R151). -/
def InSend (s : State) : Prop := hostHasTurn s.arqState = false

/-- 10_state R26, and which registers hold a value (R25). -/
structure Invariant (s : State) : Prop where
  /-- R25: without a session no register but `rxbuf` and `events` holds a value. -/
  noSession : s.arqState = .closed →
    s.seqCtr = none ∧ s.attempts = none ∧ s.txFrame = none ∧ s.txSeq = none ∧ s.failReason = none ∧ s.session = none
  /-- R25, R18: in a session the counter and the configuration hold values, the latter legal ones. -/
  inSession : s.arqState ≠ .closed →
    (∃ q, s.seqCtr = some q) ∧
      ∃ c, s.session = some c ∧ 0 < c.ackTimeout ∧ 1 ≤ c.pktMaxSize ∧ c.pktMaxSize ≤ payloadMax
  /-- R26 (a), (b), (c), and R148: at least one attempt precedes every state after it. -/
  attemptsBound : s.arqState ≠ .closed →
    ∃ n, s.attempts = some n ∧ n ≤ maxAttempts ∧ (s.arqState = .sending → n < maxAttempts) ∧
      (InSend s → s.arqState ≠ .sending → 1 ≤ n)
  /-- R26 (d). -/
  failedHasReason : s.arqState ≠ .closed →
    ∃ r, s.failReason = some r ∧ (r ≠ .noReason ↔ s.arqState = .failed)
  /-- R26 (e), (f): inside an RT.SEND the frame is the built packet of the latched number, and the counter is one ahead of that
  number or, after a timeout, 0. -/
  packetInHand : InSend s →
    ∃ type payload q, payload.length ≤ payloadMax ∧ s.txSeq = some q ∧
      s.txFrame = some (buildFrame s.config type payload q) ∧ (s.seqCtr = some (q + 1#3) ∨ s.seqCtr = some 0#3)
  /-- R140, R151: the block holds the handle exactly in a session, `Failed` included (assumption 42). -/
  handle : s.chan.isOpen = true ↔ s.arqState ≠ .closed

/-- The parameters R4 and 93 U8 admit: a page has a byte, and a finite buffer holds the block's own longest frame. -/
def ConfigOk (c : Config) : Prop := 0 < c.flashPageSize ∧ ∀ cap, c.rxBufCap = some cap → maxWire ≤ cap

/-- A step reads no register that holds no value. -/
def SafeStep (s : State) : Prop := ∀ r, step s ≠ .fault (.noValue r)

end Sys2Proof.Machine
end

