-- ==== Sys2Proof/Certificates/Slice0/Obligations.lean ====
section
/-! DEFINITION. The statements for the provers. `Sys2Proof.Spec` writes the spec's pseudocode a second time, apart from the model, so
that a statement compares two texts. `NoMarker`, `Fits` and the like say conditions in the spec's words. -/

namespace Sys2Proof.Spec

open Sys2Proof.Machine

/-- No C0 in a byte sequence. -/
def NoMarker (l : List Byte) : Prop := 0xC0#8 ∉ l

/-- The wire bytes of one raw byte (R102's case distinction). -/
def escaped (b : Byte) : List Byte :=
  if b = 0xC0#8 then [0xDB#8, 0xDC#8] else if b = 0xDB#8 then [0xDB#8, 0xDD#8] else [b]

/-- R102 as one expression. -/
def escapedAll (bytes : List Byte) : List Byte := bytes.flatMap escaped

/-- A frame around an escaped content. -/
def wireFrame (raw : List Byte) : List Byte := 0xC0#8 :: (escapedAll raw ++ [0xC0#8])

/-- R103's while loop, with its index and its output, at most `fuel` times around. -/
def unescapeLoop (bytes : List Byte) : Nat → Nat → List Byte → Except Err (List Byte)
  | 0, _, out => .ok out
  | fuel + 1, i, out =>
    if bytes.length ≤ i then .ok out
    else if bytes.getD i 0#8 = 0xDB#8 then
      if bytes.length ≤ i + 1 then .error .malformedEscape
      else if bytes.getD (i + 1) 0#8 = 0xDC#8 then unescapeLoop bytes fuel (i + 2) (out ++ [0xC0#8])
      else if bytes.getD (i + 1) 0#8 = 0xDD#8 then unescapeLoop bytes fuel (i + 2) (out ++ [0xDB#8])
      else .error .malformedEscape
    else unescapeLoop bytes fuel (i + 1) (out ++ [bytes.getD i 0#8])

/-- R103: the loop from index 0 with an empty output; each turn advances the index. -/
def unescaped (bytes : List Byte) : Except Err (List Byte) := unescapeLoop bytes (bytes.length + 1) 0 []

/-- The reply of an operation that gives bytes or an error. -/
def bytesReply : Except Err (List Byte) → Reply
  | .ok bs => .bytes bs
  | .error e => .raised e

/-- R101's loop as a relation: a buffer, the frames it gives, what stays. -/
inductive Cuts : List Byte → List (List Byte) → List Byte → Prop where
  | stop (buf : List Byte) (h : buf.count 0xC0#8 ≤ 1) : Cuts buf [] buf
  | turn (pre content rest : List Byte) (fs : List (List Byte)) (stay : List Byte) (hpre : NoMarker pre)
      (hcontent : NoMarker content) (more : Cuts rest fs stay) :
      Cuts (pre ++ 0xC0#8 :: (content ++ 0xC0#8 :: rest)) ((0xC0#8 :: (content ++ [0xC0#8])) :: fs) stay

/-- `n` more bytes fit into `rxbuf`. -/
def Fits (s : State) (n : Nat) : Prop := ∀ cap, s.config.rxBufCap = some cap → s.rxbuf.length + n ≤ cap

/-- FC.APPEND a piece, FC.DECODE, and so on: all the frames replied, and the last state. -/
def feed : List (List Byte) → State → Option (List (List Byte) × State)
  | [], s => some ([], s)
  | p :: ps, s =>
    match exec (.fcAppend p) s with
    | .next t =>
      match exec .fcDecode t with
      | .next u =>
        match u.reply with
        | some (.frames fs) => (feed ps u).map fun r => (fs ++ r.1, r.2)
        | _ => none
      | _ => none
    | _ => none

/-- One turn of R120's inner loop, on numbers. -/
def crcTurn (poly crc : Nat) : Nat :=
  if crc.testBit 15 then ((crc <<< 1) ^^^ poly) % 65536 else (crc <<< 1) % 65536

/-- One byte of R120's outer loop, on numbers. -/
def crcStep (poly crc : Nat) (b : Byte) : Nat := (crcTurn poly)^[8] (crc ^^^ (b.toNat <<< 8))

/-- R120, on numbers. -/
def crc (poly : Nat) (bytes : List Byte) (start : Nat) : Nat := bytes.foldl (crcStep poly) start

/-- R120's loop-free form of one byte step, for the polynomial 0x1021. -/
def crcStepLoopFree (crc : Hword) (b : Byte) : Hword :=
  let c1 := (crc >>> 8) ||| ((crc <<< 8) &&& 0xFF00#16)
  let c2 := c1 ^^^ b.setWidth 16
  let c3 := c2 ^^^ ((c2 &&& 0xFF#16) >>> 4)
  let c4 := c3 ^^^ (c3 <<< 12)
  c4 ^^^ ((c4 &&& 0xFF#16) <<< 5)

/-- Flip bit `i` of byte `k`. -/
def flipBit (raw : List Byte) (k i : Nat) : List Byte := raw.modify k (fun b => b ^^^ (1#8 <<< i))

/-- The four header bytes that PK.HDR_PACK must reply. -/
def HeaderBytes (seq ack dip rp type length : Nat) (b0 b1 b2 : Byte) : Prop :=
  b0.toNat = seq + 8 * ack + 64 * dip + 128 * rp ∧ b1.toNat = type + 16 * (length % 16) ∧ b2.toNat = length / 16

/-- R173's page write time `(FLASH_PAGE_SIZE / 4) × PER_WORD_WRITE_TIME`: exact for a page of whole words, else any time between those of
the quotient rounded down and rounded up (assumption 35). -/
def PageWriteTime (c : Config) (w : Micros) : Prop :=
  c.flashPageSize / 4 * c.perWordWriteTime ≤ w ∧ w ≤ (c.flashPageSize / 4 + 1) * c.perWordWriteTime ∧
    (c.flashPageSize % 4 = 0 → w = c.flashPageSize / 4 * c.perWordWriteTime)

/-- The tasks of DATA packet `k` (from 1) of `n`, with the pacing wait `pace`. -/
def PacketTasks (pace : Micros) (k n : Nat) (payload : List Byte) (group : List HostTask) : Prop :=
  ∃ after, group = .send 4 payload :: after ∧
    (k % 8 ≠ 0 → after = [.progress k n]) ∧
    (k % 8 = 0 → after = [.wait pace, .progress k n] ∨ after = [.progress k n, .wait pace])

/-- The rows of R154 for the ten transitions: the states before and after. -/
def transitionRow : Instr → ArqState → ArqState → Bool
  | .tTransmit, .sending, .awaitingAck => true
  | .tTransmit, .sending, .failed => true
  | .tRxByte, .awaitingAck, .awaitingAck => true
  | .tFrameAck, .awaitingAck, .acked => true
  | .tFrameNak, .awaitingAck, .retrying => true
  | .tFrameErr, .awaitingAck, .retrying => true
  | .tTimeout, .awaitingAck, .timedOut => true
  | .tChanErr, .awaitingAck, .failed => true
  | .tRetry, .retrying, .sending => true
  | .tRetry, .timedOut, .sending => true
  | .tExhaust, .retrying, .failed => true
  | .tExhaust, .timedOut, .failed => true
  | .tDone, .acked, .idle => true
  | _, _, _ => false

/-- The ten internal transitions. -/
def isTransition : Instr → Bool
  | .tTransmit | .tRxByte | .tFrameAck | .tFrameNak | .tFrameErr => true
  | .tTimeout | .tRetry | .tExhaust | .tDone | .tChanErr => true
  | _ => false

/-- The operations that construct a logical packet at once. -/
def constructsPacket : Instr → Bool
  | .rtSend _ _ => true
  | .sendInitPacket _ => true
  | .sendStartDfu _ _ _ _ => true
  | _ => false

/-- The instructions that take received bytes or work on `rxbuf`. -/
def touchesRxbuf : Instr → Bool
  | .marker | .esc | .escMarker | .escEsc | .literal _ | .illegalEscape _ | .frame _ => true
  | .fcAppend _ | .fcDecode | .rtOpen _ _ | .rtClose => true
  | .tRxByte | .tFrameAck | .tFrameNak | .tFrameErr => true
  | _ => false

end Sys2Proof.Spec

open Sys2Proof Sys2Proof.Machine Sys2Proof.Spec

/-! ## Frame Codec -/

/-- R102: FC.ENCODE replies the bytewise escape of its operand and changes nothing else; the corner cases of the rule. -/
def Obligations.FcEncodeEscapesBytewise : Prop :=
  ∀ (bytes more : List Byte) (s : State),
    exec (.fcEncode bytes) s = .next { s with reply := some (.bytes (escapedAll bytes)) } ∧
    NoMarker (escapedAll bytes) ∧
    bytes.length ≤ (escapedAll bytes).length ∧ (escapedAll bytes).length ≤ 2 * bytes.length ∧
    ((escapedAll bytes).length = 2 * bytes.length ↔ ∀ b ∈ bytes, b = 0xC0#8 ∨ b = 0xDB#8) ∧
    escapedAll (bytes ++ more) = escapedAll bytes ++ escapedAll more ∧
    (∃ x, escapedAll (escapedAll x) ≠ escapedAll x)

/-- R103: FC.DECODE_ESCAPES replies what the rule's loop gives, bytes or MalformedEscape, and changes nothing else. -/
def Obligations.FcDecodeEscapesFollowsTheLoop : Prop :=
  ∀ (bytes : List Byte) (s : State),
    exec (.fcDecodeEscapes bytes) s = .next { s with reply := some (bytesReply (unescaped bytes)) } ∧
    (∀ e, unescaped bytes = .error e → e = .malformedEscape) ∧
    (∀ out, unescaped bytes = .ok out → out.length ≤ bytes.length) ∧
    unescaped [0xC0#8] = .ok [0xC0#8] ∧ unescaped [0xDB#8, 0xDC#8] = .ok [0xC0#8] ∧
    unescaped [0xDB#8, 0xDB#8] = .error .malformedEscape

/-- R105: the laws of the escape pair. -/
def Obligations.EscapePairRoundTrips : Prop :=
  ∀ (x : List Byte) (s : State), ∃ y,
    exec (.fcEncode x) s = .next { s with reply := some (.bytes y) } ∧ NoMarker y ∧
    exec (.fcDecodeEscapes y) s = .next { s with reply := some (.bytes x) } ∧
    exec (.fcDecodeEscapes [0xC0#8]) s = .next { s with reply := some (.bytes [0xC0#8]) } ∧
    exec (.fcEncode [0xC0#8]) s = .next { s with reply := some (.bytes [0xDB#8, 0xDC#8]) }

/-- R100: FC.APPEND stores the bytes at the tail as they came and changes nothing else; in two pieces or in one. -/
def Obligations.FcAppendStoresAtTheTail : Prop :=
  ∀ (a b : List Byte) (s : State), Fits s (a.length + b.length) →
    exec (.fcAppend (a ++ b)) s = .next { s with rxbuf := s.rxbuf ++ (a ++ b), reply := some .nothing } ∧
    exec (.fcAppend []) s = .next { s with reply := some .nothing } ∧
    ∃ t, exec (.fcAppend a) s = .next t ∧ t = { s with rxbuf := s.rxbuf ++ a, reply := some .nothing } ∧
      exec (.fcAppend b) t = exec (.fcAppend (a ++ b)) s

/-- R101: FC.DECODE replies the frames that R101's loop cuts, oldest first, leaves the rest and changes nothing else. There is one
such cut; what stays holds at most one marker, and a second call replies no frame. -/
def Obligations.FcDecodeCutsTheFrames : Prop :=
  ∀ s : State, ∃ fs stay,
    exec .fcDecode s = .next { s with rxbuf := stay, reply := some (.frames fs) } ∧
    Cuts s.rxbuf fs stay ∧ (∀ fs' stay', Cuts s.rxbuf fs' stay' → fs' = fs ∧ stay' = stay) ∧
    stay.count 0xC0#8 ≤ 1 ∧
    exec .fcDecode { s with rxbuf := stay, reply := some (.frames fs) } =
      .next { s with rxbuf := stay, reply := some (.frames []) }

/-- R106: N delimited frames, fed in any pieces, give exactly these N frames in order, each of which unescapes to its content; a
proper prefix of the first gives none. -/
def Obligations.FedFramesComeBackInOrder : Prop :=
  ∀ (s : State), s.rxbuf = [] → s.config.rxBufCap = none →
    (∀ (cs pieces : List (List Byte)), pieces.flatten = (cs.map wireFrame).flatten →
      ∃ r, feed pieces s = some (cs.map wireFrame, { s with reply := r })) ∧
    (∀ (c : List Byte) (pieces : List (List Byte)) (tail : List Byte), tail ≠ [] → pieces.flatten ++ tail = wireFrame c →
      ∃ r, feed pieces s = some ([], { s with rxbuf := pieces.flatten, reply := r })) ∧
    (∀ c : List Byte, exec (.fcDecodeEscapes (escapedAll c)) s = .next { s with reply := some (.bytes c) })

/-- R104: FC.APPEND of one byte and FC.DECODE after every byte hand over the frames of the byte-serial deframer; it is OPEN exactly
when the buffer holds a marker, and its store is the bytes after that marker. -/
def Obligations.BufferRefinesTheDeframer : Prop :=
  ∀ (bytes : List Byte) (s : State), s.rxbuf = [] → s.config.rxBufCap = none →
    ∃ buf r, feed (bytes.map fun b => [b]) s =
        some ((deframerRun bytes .hunt).1, { s with rxbuf := buf, reply := r }) ∧
      ((deframerRun bytes .hunt).2 = .hunt ↔ NoMarker buf) ∧
      (∀ store, (deframerRun bytes .hunt).2 = .opened store →
        ∃ pre, NoMarker pre ∧ NoMarker store ∧ buf = pre ++ 0xC0#8 :: store)

/-! ## Received bytes and wire forms -/

/-- A byte class or a pair received outside a wait goes through FC.APPEND and FC.DECODE (the model's reading, assumption 10): the
frames cut are replied, and nothing but `rxbuf` and the reply changes. Any operand, the ill-formed ones too. -/
def Obligations.WireBytesPassTheFrameCodec : Prop :=
  ∀ (i : Instr) (fmt : Format) (bytes : List Byte) (s : State), encode i = some (fmt, bytes) →
    fmt = .wireByte ∨ fmt = .wireBytePair → s.arqState ≠ .awaitingAck → Fits s bytes.length →
    ∃ cls produced fs stay, Cuts (s.rxbuf ++ bytes) fs stay ∧
      exec i s = .next { s with rxbuf := stay, reply := some (.received cls produced fs) }

/-- R68's classes and effects outside a wait. Inside an open frame whose content so far is `escapedAll x`: MARKER closes the frame, ESC
produces nothing, LITERAL itself, the pairs C0 and DB, an illegal pair MalformedEscape, and DB C0 closes the frame too. After an unpaired
DB in the open frame: DC and DD make their pairs, any other byte is illegal, and C0 closes the frame. While no frame is open: MARKER
opens one, and no byte follows an ESC of the same frame, a pair's second byte neither. Nothing but `rxbuf` and the reply changes. -/
def Obligations.ReceivedBytesByClass : Prop :=
  (∀ (pre x : List Byte) (b : Byte) (s : State), NoMarker pre → s.rxbuf = pre ++ 0xC0#8 :: escapedAll x →
    s.arqState ≠ .awaitingAck → Fits s 2 →
    exec .marker s = .next { s with rxbuf := [], reply := some (.received .marker (.ok []) [wireFrame x]) } ∧
    exec .esc s = .next { s with rxbuf := s.rxbuf ++ [0xDB#8], reply := some (.received .esc (.ok []) []) } ∧
    (b ≠ 0xC0#8 → b ≠ 0xDB#8 →
      exec (.literal b) s = .next { s with rxbuf := s.rxbuf ++ [b], reply := some (.received (.literal b) (.ok [b]) []) }) ∧
    exec .escMarker s =
      .next { s with rxbuf := s.rxbuf ++ [0xDB#8, 0xDC#8], reply := some (.received .escMarker (.ok [0xC0#8]) []) } ∧
    exec .escEsc s =
      .next { s with rxbuf := s.rxbuf ++ [0xDB#8, 0xDD#8], reply := some (.received .escEsc (.ok [0xDB#8]) []) } ∧
    (b ≠ 0xDC#8 → b ≠ 0xDD#8 → b ≠ 0xC0#8 →
      exec (.illegalEscape b) s =
        .next { s with rxbuf := s.rxbuf ++ [0xDB#8, b], reply := some (.received .illegal (.error .malformedEscape) []) }) ∧
    exec (.illegalEscape 0xC0#8) s =
      .next { s with rxbuf := [],
                     reply := some (.received .illegal (.error .malformedEscape)
                       [0xC0#8 :: (escapedAll x ++ [0xDB#8, 0xC0#8])]) }) ∧
  (∀ (b : Byte) (s : State), NoMarker s.rxbuf → s.arqState ≠ .awaitingAck → Fits s 1 →
    exec .marker s =
      .next { s with rxbuf := s.rxbuf ++ [0xC0#8], reply := some (.received .marker (.ok []) []) } ∧
    exec .esc s = .next { s with rxbuf := s.rxbuf ++ [0xDB#8], reply := some (.received .esc (.ok []) []) } ∧
    (b ≠ 0xC0#8 → b ≠ 0xDB#8 →
      exec (.literal b) s = .next { s with rxbuf := s.rxbuf ++ [b], reply := some (.received (.literal b) (.ok [b]) []) })) ∧
  (∀ (pre x : List Byte) (b : Byte) (s : State), NoMarker pre → s.rxbuf = pre ++ 0xC0#8 :: (escapedAll x ++ [0xDB#8]) →
    s.arqState ≠ .awaitingAck → Fits s 1 →
    exec .marker s =
      .next { s with rxbuf := [],
                     reply := some (.received .illegal (.error .malformedEscape)
                       [0xC0#8 :: (escapedAll x ++ [0xDB#8, 0xC0#8])]) } ∧
    exec .esc s =
      .next { s with rxbuf := s.rxbuf ++ [0xDB#8], reply := some (.received .illegal (.error .malformedEscape) []) } ∧
    exec (.literal 0xDC#8) s =
      .next { s with rxbuf := s.rxbuf ++ [0xDC#8], reply := some (.received .escMarker (.ok [0xC0#8]) []) } ∧
    exec (.literal 0xDD#8) s =
      .next { s with rxbuf := s.rxbuf ++ [0xDD#8], reply := some (.received .escEsc (.ok [0xDB#8]) []) } ∧
    (b ≠ 0xDC#8 → b ≠ 0xDD#8 → b ≠ 0xC0#8 →
      exec (.literal b) s =
        .next { s with rxbuf := s.rxbuf ++ [b], reply := some (.received .illegal (.error .malformedEscape) []) })) ∧
  (∀ (b : Byte) (s : State), NoMarker s.rxbuf → s.arqState ≠ .awaitingAck → Fits s 2 →
    exec .escMarker s =
      .next { s with rxbuf := s.rxbuf ++ [0xDB#8, 0xDC#8], reply := some (.received (.literal 0xDC#8) (.ok [0xDC#8]) []) } ∧
    exec .escEsc s =
      .next { s with rxbuf := s.rxbuf ++ [0xDB#8, 0xDD#8], reply := some (.received (.literal 0xDD#8) (.ok [0xDD#8]) []) } ∧
    (b ≠ 0xC0#8 → b ≠ 0xDB#8 →
      exec (.illegalEscape b) s =
        .next { s with rxbuf := s.rxbuf ++ [0xDB#8, b], reply := some (.received (.literal b) (.ok [b]) []) }) ∧
    exec (.illegalEscape 0xDB#8) s =
      .next { s with rxbuf := s.rxbuf ++ [0xDB#8, 0xDB#8], reply := some (.received .esc (.ok []) []) } ∧
    exec (.illegalEscape 0xC0#8) s =
      .next { s with rxbuf := s.rxbuf ++ [0xDB#8, 0xC0#8], reply := some (.received .marker (.ok []) []) })

/-- Inside a wait a wire byte is the receive step of R143: the same as the transition the block takes when the channel delivers that
byte. A byte class, a pair or FRAME with any content (assumption 10) is the block's own steps on its bytes, one by one, for as long as the
wait lasts; the bytes after its end stand unread at the head of the channel. It completes when the bytes fit. -/
def Obligations.WireByteInAWaitIsTheReceiveStep : Prop :=
  (∀ (b : Byte) (s : State), s.arqState = .awaitingAck →
    exec (decodeWireByte b) s = step { s with chan := { s.chan with rxIn := .byte b :: s.chan.rxIn } } ∧
    exec (.literal b) s = step { s with chan := { s.chan with rxIn := .byte b :: s.chan.rxIn } }) ∧
  (∀ (i : Instr) (fmt : Format) (bytes : List Byte) (s t : State), encode i = some (fmt, bytes) →
    fmt = .wireByte ∨ fmt = .wireBytePair ∨ fmt = .wireFrame → s.arqState = .awaitingAck →
    t = { s with chan := { s.chan with rxIn := bytes.map .byte ++ s.chan.rxIn } } →
    (∃ k, k ≤ bytes.length ∧ exec i s = core.run k t ∧
      (∀ j, j < k → ∃ v, core.run j t = .next v ∧ v.arqState = .awaitingAck) ∧
      (∀ u, exec i s = .next u →
        u.chan.rxIn = (bytes.drop k).map .byte ++ s.chan.rxIn ∧ (k < bytes.length → u.arqState ≠ .awaitingAck))) ∧
    (∀ q, s.txSeq = some q → Fits s bytes.length → ∃ u, exec i s = .next u))

/-- FRAME and RAW_PACKET (assumption 11). RAW_PACKET always completes and is PK.DECODE of the frame that carries these raw bytes. FRAME
with any content, outside a wait: the wire frame is cut and each frame that is cut is decoded, to what PK.DECODE replies for it; with no
frame open before and no marker inside, that is this one frame. Nothing but `rxbuf` and the reply changes. (Inside a wait:
`WireByteInAWaitIsTheReceiveStep`.) -/
def Obligations.WireFormsGiveTheirPackets : Prop :=
  (∀ (u : List Byte) (s : State),
    exec (.rawPacket u) s = exec (.pkDecode (wireFrame u)) s ∧ ∃ r, exec (.rawPacket u) s = .next { s with reply := some r }) ∧
  (∀ (content : List Byte) (s : State), s.arqState ≠ .awaitingAck → Fits s (content.length + 2) →
    ∃ fs stay, Cuts (s.rxbuf ++ 0xC0#8 :: (content ++ [0xC0#8])) fs stay ∧
      exec (.frame content) s =
        .next { s with rxbuf := stay, reply := some (.decoded (fs.map (decodeFrame s.config))) } ∧
      (∀ f ∈ fs,
        (∀ p, decodeFrame s.config f = .ok p ↔ exec (.pkDecode f) s = .next { s with reply := some (.packet p) }) ∧
        (∀ e, decodeFrame s.config f = .error e ↔ exec (.pkDecode f) s = .next { s with reply := some (.raised e) })) ∧
      (NoMarker s.rxbuf → NoMarker content → fs = [0xC0#8 :: (content ++ [0xC0#8])] ∧ stay = []))

/-- R70, R75: the five packet-type codes pass through, fields and type unchanged, and nothing else changes (assumption 11). -/
def Obligations.HeaderWordsPassUnchanged : Prop :=
  ∀ (seq ack : Seq) (dip rp : Bool) (type : BitVec 4) (length : BitVec 12) (hcs : Byte) (s : State),
    exec (.typeInit seq ack dip rp length hcs) s =
      .next { s with reply := some (.header ⟨seq, ack, dip, rp, 1#4, length, hcs⟩) } ∧
    exec (.typeStart seq ack dip rp length hcs) s =
      .next { s with reply := some (.header ⟨seq, ack, dip, rp, 3#4, length, hcs⟩) } ∧
    exec (.typeData seq ack dip rp length hcs) s =
      .next { s with reply := some (.header ⟨seq, ack, dip, rp, 4#4, length, hcs⟩) } ∧
    exec (.typeStopData seq ack dip rp length hcs) s =
      .next { s with reply := some (.header ⟨seq, ack, dip, rp, 5#4, length, hcs⟩) } ∧
    exec (.typeReserved seq ack dip rp type length hcs) s =
      .next { s with reply := some (.header ⟨seq, ack, dip, rp, type, length, hcs⟩) }

/-! ## Packet Codec -/

/-- R120: PK.CRC16 replies what the rule's two loops give, from CRC_INIT when the start is omitted, incrementally, and for the
default polynomial by the loop-free step; nothing else changes. -/
def Obligations.PkCrc16FollowsTheLoops : Prop :=
  ∀ (a b : List Byte) (start : Option Hword) (s : State),
    (∃ v : Hword, exec (.pkCrc16 a start) s = .next { s with reply := some (.value16 v) } ∧
      v.toNat = crc s.config.crcPoly.toNat a (start.getD 0xFFFF#16).toNat ∧
      exec (.pkCrc16 (a ++ b) start) s = exec (.pkCrc16 b (some v)) s) ∧
    (∀ c : Hword, exec (.pkCrc16 [] (some c)) s = .next { s with reply := some (.value16 c) }) ∧
    (s.config.crcPoly = 0x1021#16 → ∀ (c : Hword) (x : Byte),
      exec (.pkCrc16 [x] (some c)) s = .next { s with reply := some (.value16 (crcStepLoopFree c x)) })

/-- R121: PK.HDR_CSUM replies the header checksum under each of the three modes; nothing else changes. -/
def Obligations.PkHdrCsumSums : Prop :=
  ∀ (b0 b1 b2 : Byte) (s : State), ∃ v : Byte,
    exec (.pkHdrCsum b0 b1 b2) s = .next { s with reply := some (.byte v) } ∧
    (s.config.hdrCsumMode = .ocsum →
      (b0.toNat + b1.toNat + b2.toNat = 0 → v.toNat = 0) ∧
      (0 < b0.toNat + b1.toNat + b2.toNat →
        0 < v.toNat ∧ v.toNat % 255 = (b0.toNat + b1.toNat + b2.toNat) % 255)) ∧
    (s.config.hdrCsumMode = .notsum → v.toNat + (b0.toNat + b1.toNat + b2.toNat) % 256 = 255) ∧
    (s.config.hdrCsumMode = .negsum → (v.toNat + (b0.toNat + b1.toNat + b2.toNat)) % 256 = 0)

/-- R122: PK.HDR_PACK replies the four header bytes of fields in range, and is refused outside it; nothing else changes. -/
def Obligations.PkHdrPackLaysOutTheFields : Prop :=
  ∀ (seq ack dip rp type length : Nat) (s : State),
    (seq ≤ 7 → ack ≤ 7 → dip ≤ 1 → rp ≤ 1 → type ≤ 15 → length ≤ 4095 →
      ∃ b0 b1 b2 b3, exec (.pkHdrPack seq ack dip rp type length) s = .next { s with reply := some (.bytes [b0, b1, b2, b3]) } ∧
        HeaderBytes seq ack dip rp type length b0 b1 b2 ∧
        exec (.pkHdrCsum b0 b1 b2) s = .next { s with reply := some (.byte b3) }) ∧
    (¬ (seq ≤ 7 ∧ ack ≤ 7 ∧ dip ≤ 1 ∧ rp ≤ 1 ∧ type ≤ 15 ∧ length ≤ 4095) →
      exec (.pkHdrPack seq ack dip rp type length) s = .next { s with reply := some .refused })

/-- R123: PK.HDR_UNPACK is total and inverse to PK.HDR_PACK: the fields it replies stand in the bytes where R122 puts them, packing
them gives the bytes back exactly when the fourth is the checksum of the others, and unpacking packed fields replies these fields and
the checksum. -/
def Obligations.PkHdrUnpackInvertsPack : Prop :=
  (∀ (h0 h1 h2 h3 : Byte) (s : State), ∃ h : Header,
    exec (.pkHdrUnpack h0 h1 h2 h3) s = .next { s with reply := some (.header h) } ∧
    HeaderBytes h.seq.toNat h.ack.toNat h.dip.toNat h.rp.toNat h.type.toNat h.length.toNat h0 h1 h2 ∧ h.hcs = h3 ∧
    (exec (.pkHdrPack h.seq.toNat h.ack.toNat h.dip.toNat h.rp.toNat h.type.toNat h.length.toNat) s =
        .next { s with reply := some (.bytes [h0, h1, h2, h3]) } ↔
      exec (.pkHdrCsum h0 h1 h2) s = .next { s with reply := some (.byte h3) })) ∧
  (∀ (seq ack dip rp type length : Nat) (b0 b1 b2 b3 : Byte) (s : State),
    exec (.pkHdrPack seq ack dip rp type length) s = .next { s with reply := some (.bytes [b0, b1, b2, b3]) } →
    ∃ h : Header, exec (.pkHdrUnpack b0 b1 b2 b3) s = .next { s with reply := some (.header h) } ∧
      h.seq.toNat = seq ∧ h.ack.toNat = ack ∧ h.dip.toNat = dip ∧ h.rp.toNat = rp ∧ h.type.toNat = type ∧
      h.length.toNat = length ∧ h.hcs = b3)

/-- R124: PK.BUILD replies a marker, the escaped header, payload and CRC (low byte first), and a marker, 8 to 1038 bytes; operands
out of range are refused; nothing else changes. -/
def Obligations.PkBuildAssemblesTheFrame : Prop :=
  ∀ (type : Nat) (payload : List Byte) (seq : Nat) (s : State),
    (type ≤ 15 → payload.length ≤ 512 → (hseq : seq ≤ 7) →
      ∃ (h : List Byte) (c : Hword),
        exec (.pkHdrPack seq (s.config.txAck[seq]).toNat s.config.txDip.toNat s.config.txRp.toNat type payload.length) s =
          .next { s with reply := some (.bytes h) } ∧
        exec (.pkCrc16 (h ++ payload) none) s = .next { s with reply := some (.value16 c) } ∧
        exec (.pkBuild type payload seq) s =
          .next { s with reply := some (.bytes (wireFrame (h ++ payload ++
            [BitVec.ofNat 8 (c.toNat % 256), BitVec.ofNat 8 (c.toNat / 256)]))) } ∧
        8 ≤ (wireFrame (h ++ payload ++ [BitVec.ofNat 8 (c.toNat % 256), BitVec.ofNat 8 (c.toNat / 256)])).length ∧
        (wireFrame (h ++ payload ++ [BitVec.ofNat 8 (c.toNat % 256), BitVec.ofNat 8 (c.toNat / 256)])).length ≤ 1038) ∧
    (¬ (type ≤ 15 ∧ payload.length ≤ 512 ∧ seq ≤ 7) →
      exec (.pkBuild type payload seq) s = .next { s with reply := some .refused })

/-- R125: PK.DECODE checks escapes, minimum size, length field and CRC in this order, and the first failure is the error; without
both markers it is refused; nothing but the reply changes. For a content with a C0 inside, that PK.DECODE takes it is the model's choice
(assumption 41). -/
def Obligations.PkDecodeChecksInOrder : Prop :=
  ∀ (f : List Byte) (s : State),
    ((∀ content, f ≠ 0xC0#8 :: (content ++ [0xC0#8])) → exec (.pkDecode f) s = .next { s with reply := some .refused }) ∧
    (∀ content, f = 0xC0#8 :: (content ++ [0xC0#8]) →
      (∀ e, unescaped content = .error e → exec (.pkDecode f) s = .next { s with reply := some (.raised .malformedEscape) }) ∧
      (∀ u, unescaped content = .ok u →
        (u.length < 6 → exec (.pkDecode f) s = .next { s with reply := some (.raised .truncatedPacket) }) ∧
        (∀ b0 b1 b2 b3 rest lo hi, u = [b0, b1, b2, b3] ++ rest ++ [lo, hi] →
          ∀ h, exec (.pkHdrUnpack b0 b1 b2 b3) s = .next { s with reply := some (.header h) } →
            (h.length.toNat ≠ rest.length → exec (.pkDecode f) s = .next { s with reply := some (.raised .truncatedPacket) }) ∧
            (h.length.toNat = rest.length → h.dip = true →
              crc s.config.crcPoly.toNat ([b0, b1, b2, b3] ++ rest) 0xFFFF ≠ lo.toNat + 256 * hi.toNat →
              exec (.pkDecode f) s = .next { s with reply := some (.raised .crcMismatch) }) ∧
            (h.length.toNat = rest.length →
              (h.dip = true → crc s.config.crcPoly.toNat ([b0, b1, b2, b3] ++ rest) 0xFFFF = lo.toNat + 256 * hi.toNat) →
              exec (.pkDecode f) s =
                .next { s with reply := some (.packet
                  { header := h, payload := rest, crc := BitVec.ofNat 16 (lo.toNat + 256 * hi.toNat) }) }))))

/-- R126: PK.ACK_ACCEPTS of two numbers 0 to 7 replies whether `a = (s + 1) mod 8`; of the eight numbers exactly one is accepted. -/
def Obligations.PkAckAcceptsTheSuccessor : Prop :=
  ∀ (q : Nat) (s : State), q ≤ 7 →
    (∀ a, a ≤ 7 → exec (.pkAckAccepts a q) s = .next { s with reply := some (.truth (decide (a = (q + 1) % 8))) }) ∧
    ∃ a, a ≤ 7 ∧ exec (.pkAckAccepts a q) s = .next { s with reply := some (.truth true) } ∧
      ∀ b, b ≤ 7 → exec (.pkAckAccepts b q) s = .next { s with reply := some (.truth true) } → b = a

/-- R127 (a): decoding a built packet gives its type, payload and sequence number back, with TX_ACK, TX_DIP and TX_RP, whatever the
parameters are. -/
def Obligations.BuiltPacketsDecodeToTheirFields : Prop :=
  ∀ (type : Nat) (payload : List Byte) (seq : Nat) (s : State), type ≤ 15 → payload.length ≤ 512 → (hseq : seq ≤ 7) →
    ∃ f p, exec (.pkBuild type payload seq) s = .next { s with reply := some (.bytes f) } ∧
      exec (.pkDecode f) s = .next { s with reply := some (.packet p) } ∧
      p.header.type.toNat = type ∧ p.payload = payload ∧ p.header.seq.toNat = seq ∧
      p.header.length.toNat = payload.length ∧ p.header.ack = s.config.txAck[seq] ∧
      p.header.dip = s.config.txDip ∧ p.header.rp = s.config.txRp

/-- R127 (b): one flipped bit of header or payload of a packet built with the integrity flag. The flag's own flip decodes, a flip of a
length bit is TruncatedPacket, every other flip CrcMismatch, for every polynomial with bit 0 set. -/
def Obligations.OneFlippedBitIsNoticed : Prop :=
  ∀ (type : BitVec 4) (payload : List Byte) (seq : Seq) (s : State) (k i : Nat),
    payload.length ≤ 512 → s.config.txDip = true → s.config.crcPoly.getLsbD 0 = true → k < 4 + payload.length → i < 8 →
    (k = 0 ∧ i = 6 → ∃ p, p.header.dip = false ∧
      exec (.pkDecode (wireFrame (flipBit (rawPacketOf s.config type payload seq) k i))) s =
        .next { s with reply := some (.packet p) }) ∧
    ((k = 1 ∧ 4 ≤ i) ∨ k = 2 →
      exec (.pkDecode (wireFrame (flipBit (rawPacketOf s.config type payload seq) k i))) s =
        .next { s with reply := some (.raised .truncatedPacket) }) ∧
    (¬ (k = 0 ∧ i = 6) → ¬ (k = 1 ∧ 4 ≤ i) → k ≠ 2 →
      exec (.pkDecode (wireFrame (flipBit (rawPacketOf s.config type payload seq) k i))) s =
        .next { s with reply := some (.raised .crcMismatch) })

/-! ## Reliable Transport: host-port operations -/

/-- R140: RT.OPEN in `Closed` with legal operands (R18). An open that succeeds resets the session and replies; one that fails raises
ChannelError and writes no register. In any other state it is refused. Nothing else changes. -/
def Obligations.RtOpenResetsTheSession : Prop :=
  ∀ (t n : Nat) (s : State),
    (s.arqState = .closed → 0 < t → 1 ≤ n → n ≤ 512 →
      (∀ rest, s.chan.openAnswers = .ok :: rest →
        exec (.rtOpen t n) s = .next { s with
          rxbuf := [], seqCtr := some 0#3, attempts := some 0, failReason := some .noReason, session := some ⟨t, n⟩,
          arqState := .idle, reply := some .nothing, chan := { s.chan with isOpen := true, openAnswers := rest } }) ∧
      (∀ rest, s.chan.openAnswers = .error :: rest →
        exec (.rtOpen t n) s = .next { s with
          reply := some (.raised .channelError), chan := { s.chan with openAnswers := rest } })) ∧
    (s.arqState ≠ .closed → exec (.rtOpen t n) s = .next { s with reply := some .refused })

/-- R141: an RT.SEND in `Idle` with operands in range latches the counter, advances it, builds the frame and starts the first
attempt; nothing else changes. -/
def Obligations.RtSendAcceptsInIdle : Prop :=
  ∀ (type : Nat) (payload : List Byte) (q : Seq) (s : State), s.arqState = .idle → s.seqCtr = some q → type ≤ 15 →
    payload.length ≤ 512 →
    ∃ f, exec (.pkBuild type payload q.toNat) s = .next { s with reply := some (.bytes f) } ∧
      exec (.rtSend type payload) s = .next { s with
        txSeq := some q, seqCtr := some (q + 1#3), txFrame := some f, attempts := some 0, arqState := .sending, reply := none }

/-- R152: RT.SEND in `Failed` replies the stored error, with any operands, and touches nothing; the host's pseudo-operations, which
begin with an RT.SEND, meet the same (assumption 31). -/
def Obligations.FailedRepliesTheStoredReason : Prop :=
  ∀ (type : Nat) (bytes : List Byte) (mode : UpdateMode) (sd bl app : Option Nat) (i : Instr) (s : State),
    i ∈ [.rtSend type bytes, .sendInitPacket bytes, .sendStartDfu mode sd bl app, .sendFirmware bytes, .sendValidateFirmware,
      .sendActivateFirmware] →
    s.arqState = .failed →
    (s.failReason = some .retryExhausted → exec i s = .next { s with reply := some (.raised .retryExhausted) }) ∧
    (s.failReason = some .channelError → exec i s = .next { s with reply := some (.raised .channelError) })

/-- D24: RT.OPEN, RT.SEND, RT.CLOSE, the host's pseudo-operations and PK.ACK_ACCEPTS (assumption 33) outside their condition are
refused: the reply says so and nothing else changes (assumption 3). -/
def Obligations.TransportRefusesOutsideItsConditions : Prop :=
  ∀ (t n type a q : Nat) (payload : List Byte) (mode : UpdateMode) (sd bl app : Option Nat) (i : Instr) (s : State),
    (¬ (s.arqState = .closed ∧ 0 < t ∧ 1 ≤ n ∧ n ≤ 512) →
      exec (.rtOpen t n) s = .next { s with reply := some .refused }) ∧
    (s.arqState ≠ .failed → ¬ (s.arqState = .idle ∧ type ≤ 15 ∧ payload.length ≤ 512) →
      exec (.rtSend type payload) s = .next { s with reply := some .refused }) ∧
    (s.arqState ≠ .idle → s.arqState ≠ .failed → s.arqState ≠ .closed →
      exec .rtClose s = .next { s with reply := some .refused }) ∧
    (s.arqState ≠ .idle → s.arqState ≠ .failed →
      i ∈ [.sendInitPacket payload, .sendStartDfu mode sd bl app, .sendFirmware payload, .sendValidateFirmware,
        .sendActivateFirmware] →
      exec i s = .next { s with reply := some .refused }) ∧
    (¬ (a ≤ 7 ∧ q ≤ 7) → exec (.pkAckAccepts a q) s = .next { s with reply := some .refused })

/-- R151, R25: RT.CLOSE in `Idle` or `Failed` closes the channel, whatever `close` answers (assumption 37), empties `rxbuf` and leaves every
other register but `events` without a value; in `Closed` the same without a call of `close` (assumption 19; 90 C8). -/
def Obligations.RtCloseDiscardsTheSession : Prop :=
  ∀ s : State,
    (s.arqState = .idle ∨ s.arqState = .failed →
      exec .rtClose s = .next { s with
        rxbuf := [], seqCtr := none, arqState := .closed, attempts := none, txFrame := none, txSeq := none, failReason := none,
        session := none, reply := some .nothing,
        chan := { s.chan with isOpen := false, closeAnswers := s.chan.closeAnswers.tail } }) ∧
    (s.arqState = .closed →
      exec .rtClose s = .next { s with
        rxbuf := [], seqCtr := none, arqState := .closed, attempts := none, txFrame := none, txSeq := none, failReason := none,
        session := none, reply := some .nothing })

/-! ## Reliable Transport: transitions -/

/-- R142: T.TRANSMIT counts the attempt and writes the whole frame; on ok it waits, on an error some prefix has gone out and the
session fails with ChannelError; nothing else changes. (`chan.isOpen` is the block's own hold of the handle, assumption 42.) -/
def Obligations.TransmitWritesTheWholeFrame : Prop :=
  ∀ (n : Nat) (f : List Byte) (s : State), s.arqState = .sending → s.attempts = some n → s.txFrame = some f →
    (∀ rest, s.chan.writeAnswers = .ok :: rest →
      exec .tTransmit s = .next { s with
        attempts := some (n + 1), arqState := .awaitingAck,
        chan := { s.chan with tx := s.chan.tx ++ f, writeAnswers := rest } }) ∧
    (∀ m rest, s.chan.writeAnswers = .error m :: rest →
      exec .tTransmit s = .next { s with
        attempts := some (n + 1), arqState := .failed, failReason := some .channelError,
        reply := some (.raised .channelError),
        chan := { s.chan with tx := s.chan.tx ++ f.take m, writeAnswers := rest } })

/-- R143: T.RX_BYTE. Nothing arrives, or a byte that completes no frame: the wait goes on and only `rxbuf` takes the byte. -/
def Obligations.RxByteKeepsWaiting : Prop :=
  ∀ s : State, s.arqState = .awaitingAck →
    (∀ rest, s.chan.rxIn = .nothing :: rest → exec .tRxByte s = .next { s with chan := { s.chan with rxIn := rest } }) ∧
    (∀ b rest, s.chan.rxIn = .byte b :: rest → Fits s 1 → (s.rxbuf ++ [b]).count 0xC0#8 ≤ 1 →
      exec .tRxByte s = .next { s with rxbuf := s.rxbuf ++ [b], chan := { s.chan with rxIn := rest } })

/-- R144, R145: the byte completes a frame that decodes. With the expected `ack`, T.FRAME_ACK goes to `Acked`; with another, T.FRAME_NAK
goes to `Retrying`. Beside `arq_state` only `rxbuf` has changed: no counter, no event. Nothing of the packet but its `ack` is looked at
(R155). The second part says the same with the packet's bytes written out: whenever `rxbuf` holds an open frame of a raw packet whose
length field and, with `dip`, CRC are right, the closing marker completes one of the two. -/
def Obligations.DecodedFrameDecidesByItsAck : Prop :=
  (∀ (b : Byte) (rest : List RxInput) (f : List Byte) (more : List (List Byte)) (stay : List Byte) (p : Packet) (q : Seq) (s : State),
    s.arqState = .awaitingAck → s.chan.rxIn = .byte b :: rest → Fits s 1 → Cuts (s.rxbuf ++ [b]) (f :: more) stay →
    exec (.pkDecode f) s = .next { s with reply := some (.packet p) } → s.txSeq = some q →
    (p.header.ack = q + 1#3 →
      exec .tFrameAck s = .next { s with rxbuf := stay, arqState := .acked, chan := { s.chan with rxIn := rest } }) ∧
    (p.header.ack ≠ q + 1#3 →
      exec .tFrameNak s = .next { s with rxbuf := stay, arqState := .retrying, chan := { s.chan with rxIn := rest } })) ∧
  (∀ (pre payload : List Byte) (b0 b1 b2 b3 lo hi : Byte) (rest : List RxInput) (q : Seq) (s : State),
    s.arqState = .awaitingAck → s.chan.rxIn = .byte 0xC0#8 :: rest → Fits s 1 → s.txSeq = some q → NoMarker pre →
    s.rxbuf = pre ++ 0xC0#8 :: escapedAll ([b0, b1, b2, b3] ++ payload ++ [lo, hi]) →
    b1.toNat / 16 + 16 * b2.toNat = payload.length →
    (b0.getLsbD 6 = true →
      crc s.config.crcPoly.toNat ([b0, b1, b2, b3] ++ payload) 0xFFFF = lo.toNat + 256 * hi.toNat) →
    (b0.toNat / 8 % 8 = (q.toNat + 1) % 8 →
      exec .tFrameAck s = .next { s with rxbuf := [], arqState := .acked, chan := { s.chan with rxIn := rest } }) ∧
    (b0.toNat / 8 % 8 ≠ (q.toNat + 1) % 8 →
      exec .tFrameNak s = .next { s with rxbuf := [], arqState := .retrying, chan := { s.chan with rxIn := rest } }))

/-- R146: T.FRAME_ERR. The byte completes a frame that does not decode: `Retrying`; the frame is gone, the error is reported to
nobody. The second part says when, with the bytes written out: the open frame's content does not unescape, or is shorter than 6 bytes, or
its length field is wrong, or `dip` is set and its CRC is wrong. -/
def Obligations.UndecodableFrameLeadsToRetrying : Prop :=
  (∀ (b : Byte) (rest : List RxInput) (f : List Byte) (more : List (List Byte)) (stay : List Byte) (e : Err) (s : State),
    s.arqState = .awaitingAck → s.chan.rxIn = .byte b :: rest → Fits s 1 → Cuts (s.rxbuf ++ [b]) (f :: more) stay →
    exec (.pkDecode f) s = .next { s with reply := some (.raised e) } →
    exec .tFrameErr s = .next { s with rxbuf := stay, arqState := .retrying, chan := { s.chan with rxIn := rest } }) ∧
  (∀ (pre content : List Byte) (rest : List RxInput) (s : State),
    s.arqState = .awaitingAck → s.chan.rxIn = .byte 0xC0#8 :: rest → Fits s 1 → NoMarker pre → NoMarker content →
    s.rxbuf = pre ++ 0xC0#8 :: content →
    (unescaped content = .error .malformedEscape ∨
      (∃ u, unescaped content = .ok u ∧ u.length < 6) ∨
      (∃ b0 b1 b2 b3 payload lo hi, unescaped content = .ok ([b0, b1, b2, b3] ++ payload ++ [lo, hi]) ∧
        (b1.toNat / 16 + 16 * b2.toNat ≠ payload.length ∨
          (b0.getLsbD 6 = true ∧
            crc s.config.crcPoly.toNat ([b0, b1, b2, b3] ++ payload) 0xFFFF ≠ lo.toNat + 256 * hi.toNat)))) →
    exec .tFrameErr s = .next { s with rxbuf := [], arqState := .retrying, chan := { s.chan with rxIn := rest } })

/-- R147: T.TIMEOUT. The counter is 0, one TIMEOUT event is raised, `TimedOut`; the packet keeps its frame and its number, and
`rxbuf` what it holds. The text of the message is free. -/
def Obligations.TimeoutResetsTheCounter : Prop :=
  ∀ (rest : List RxInput) (s : State), s.arqState = .awaitingAck → s.chan.rxIn = .timeout :: rest →
    ∃ message n, exec .tTimeout s = .next { s with
      seqCtr := some 0#3, events := s.events ++ [.timeout message], arqState := .timedOut,
      chan := { s.chan with rxIn := rest }, freeCount := n }

/-- R148: after a failed attempt, T.RETRY while `attempts ≤ 3` and T.EXHAUST when `attempts > 3`, and never the other; from a state with
the invariant of R26, `attempts` is 1 to 3 on T.RETRY and exactly 4 on T.EXHAUST. -/
def Obligations.RetryUntilFourAttempts : Prop :=
  ∀ (n : Nat) (s : State), s.arqState = .retrying ∨ s.arqState = .timedOut → s.attempts = some n →
    (n ≤ 3 → exec .tRetry s = .next { s with arqState := .sending } ∧ (∀ t, exec .tExhaust s ≠ .next t)) ∧
    (n > 3 →
      exec .tExhaust s = .next { s with
        arqState := .failed, failReason := some .retryExhausted, reply := some (.raised .retryExhausted) } ∧
      (∀ t, exec .tRetry s ≠ .next t)) ∧
    (Invariant s → 1 ≤ n ∧ (n > 3 → n = 4))

/-- R149, R150: T.DONE goes to `Idle` and RT.SEND replies ok, the other registers keep their values; T.CHAN_ERR ends the session with
ChannelError when a read fails during a wait, whatever `attempts` is. (`chan.isOpen` is the block's own hold of the handle, assumption 42.) -/
def Obligations.DoneAndChannelErrorEndTheSend : Prop :=
  ∀ s : State,
    (s.arqState = .acked → exec .tDone s = .next { s with arqState := .idle, reply := some .ok }) ∧
    (∀ rest, s.arqState = .awaitingAck → s.chan.rxIn = .error :: rest →
      exec .tChanErr s = .next { s with
        arqState := .failed, failReason := some .channelError, reply := some (.raised .channelError),
        chan := { s.chan with rxIn := rest } })

/-- R154: a transition that answers a next state is a row of the table. -/
def Obligations.TransitionsFollowTheTable : Prop :=
  ∀ (i : Instr) (s t : State), isTransition i = true → exec i s = .next t → transitionRow i s.arqState t.arqState = true

/-! ## Host and channel -/

/-- R171: `send_init_packet(b)` is `RT.SEND(1, b ++ [00, 00])`; in `Idle` with at most 510 bytes it is accepted. -/
def Obligations.SendInitPacketPadsAndSends : Prop :=
  ∀ (bytes : List Byte) (s : State),
    exec (.sendInitPacket bytes) s = exec (.rtSend 1 (bytes ++ [0x00#8, 0x00#8])) s ∧
    (∀ q, s.arqState = .idle → s.seqCtr = some q → bytes.length ≤ 510 →
      ∃ t, exec (.sendInitPacket bytes) s = .next t ∧ t.arqState = .sending ∧ t.txSeq = some q)

/-- R172: in `Idle`, `send_start_dfu` is an accepted RT.SEND of type 3 with the host's erase wait queued behind it, which is at least
half a second. The payload's bytes (assumption 22) and the host's accumulated total (25) are free. That the call itself writes that total
and `host.softdevice`, the size given or 0, before its packet is sent, is the model's choice (39, 25): R177 gives no moment. -/
def Obligations.SendStartDfuQueuesTheEraseWait : Prop :=
  ∀ (mode : UpdateMode) (sd bl app : Option Nat) (q : Seq) (s : State), s.arqState = .idle → s.seqCtr = some q →
    ∃ payload total wait u,
      payload.length ≤ 512 ∧
      wait = max 500000 ((sd.getD 0 + bl.getD 0 + app.getD 0 + s.config.flashPageSize - 1) / s.config.flashPageSize *
        s.config.perPageEraseTime) ∧
      exec (.rtSend 3 payload) s = .next u ∧ u.arqState = .sending ∧
      exec (.sendStartDfu mode sd bl app) s = .next { u with host := { s.host with
        tasks := .wait wait :: s.host.tasks, total := total, softdevice := sd.getD 0 } }

/-- R173: in `Idle`, `send_firmware` queues one DATA packet per chunk of `cfg.pkt_max_size` bytes, each followed by its progress event
and every eighth by the page write time (the order of the two is free, and so is how `FLASH_PAGE_SIZE / 4` rounds where it is no whole number,
assumption 35), then STOP_DATA. The chunks are the image in order, all but the last full. For an empty image STOP_DATA may be left out (free). That the call itself writes the host's total, a free value, is the
model's choice (39, 25). -/
def Obligations.SendFirmwareQueuesTheChunks : Prop :=
  ∀ (image : List Byte) (c : Session) (s : State), s.arqState = .idle → s.session = some c → 1 ≤ c.pktMaxSize →
    ∃ (tasks : List HostTask) (total : Nat) (pace : Micros), PageWriteTime s.config pace ∧
      exec (.sendFirmware image) s = .next { s with
        host := { s.host with tasks := tasks ++ s.host.tasks, total := total }, reply := none } ∧
      (image = [] → tasks = [] ∨ tasks = [.send 5 []]) ∧
      (image ≠ [] → ∃ (chunks : List (List Byte)) (groups : List (List HostTask)),
        chunks.flatten = image ∧ (∀ x ∈ chunks, 1 ≤ x.length ∧ x.length ≤ c.pktMaxSize) ∧
        (∀ x ∈ chunks.dropLast, x.length = c.pktMaxSize) ∧
        groups.length = chunks.length ∧
        (∀ k (h : k < groups.length) (h' : k < chunks.length),
          PacketTasks pace (k + 1) chunks.length chunks[k] groups[k]) ∧
        tasks = groups.flatten ++ [.send 5 []])

/-- R73, R174: in `Idle`, `send_validate_firmware` and `send_activate_firmware` queue an expansion that the spec does not describe
(free, assumption 24), the second with its wait at the end; nothing of the block changes. -/
def Obligations.ValidateAndActivateQueueTheirExpansions : Prop :=
  ∀ s : State, s.arqState = .idle →
    (∃ tasks n, exec .sendValidateFirmware s = .next { s with
      host := { s.host with tasks := tasks ++ s.host.tasks }, freeCount := n, reply := none }) ∧
    (∃ tasks wait n, exec .sendActivateFirmware s = .next { s with
      host := { s.host with tasks := tasks ++ [.wait wait] ++ s.host.tasks }, freeCount := n, reply := none })

/-- R42, R43: ChanRead takes the next received byte, or answers none or error; a byte is returned once; a timer expiry at the head is
left there (assumption 30). ChanWrite appends the bytes in index order as one action and answers ok, or answers error with some prefix
of them sent. Nothing but the channel and the reply changes. -/
def Obligations.ChannelPrimitivesAnswer : Prop :=
  ∀ (bs : List Byte) (s : State),
    (∀ b rest, s.chan.rxIn = .byte b :: rest →
      exec .chanRead s = .next { s with reply := some (.readByte b), chan := { s.chan with rxIn := rest } }) ∧
    (∀ rest, s.chan.rxIn = .nothing :: rest →
      exec .chanRead s = .next { s with reply := some .readNone, chan := { s.chan with rxIn := rest } }) ∧
    (∀ rest, s.chan.rxIn = .error :: rest →
      exec .chanRead s = .next { s with reply := some .readError, chan := { s.chan with rxIn := rest } }) ∧
    (∀ rest, s.chan.rxIn = .timeout :: rest → exec .chanRead s = .next { s with reply := some .readNone }) ∧
    (∀ rest, s.chan.writeAnswers = .ok :: rest →
      exec (.chanWrite bs) s = .next { s with
        reply := some .writeOk, chan := { s.chan with tx := s.chan.tx ++ bs, writeAnswers := rest } }) ∧
    (∀ n rest, s.chan.writeAnswers = .error n :: rest →
      exec (.chanWrite bs) s = .next { s with
        reply := some .writeError, chan := { s.chan with tx := s.chan.tx ++ bs.take n, writeAnswers := rest } })

/-- Where the environment's script says nothing more, the channel opens, takes every write, and delivers nothing: the model's choice
(assumption 2), not a rule of the spec. -/
def Obligations.EmptyScriptsAnswerTheDefault : Prop :=
  ∀ (t n k : Nat) (f bs : List Byte) (s : State),
    (s.chan.openAnswers = [] → s.arqState = .closed → 0 < t → 1 ≤ n → n ≤ 512 →
      exec (.rtOpen t n) s = .next { s with
        rxbuf := [], seqCtr := some 0#3, attempts := some 0, failReason := some .noReason, session := some ⟨t, n⟩,
        arqState := .idle, reply := some .nothing, chan := { s.chan with isOpen := true } }) ∧
    (s.chan.writeAnswers = [] →
      exec (.chanWrite bs) s = .next { s with reply := some .writeOk, chan := { s.chan with tx := s.chan.tx ++ bs } } ∧
      (s.arqState = .sending → s.attempts = some k → s.txFrame = some f →
        exec .tTransmit s = .next { s with
          attempts := some (k + 1), arqState := .awaitingAck, chan := { s.chan with tx := s.chan.tx ++ f } })) ∧
    (s.chan.rxIn = [] →
      exec .chanRead s = .next { s with reply := some .readNone } ∧
      (s.arqState = .awaitingAck → exec .tRxByte s = .next s))

/-- A finite RX_BUF_CAP (93 U8; what happens on overflow is the model's choice, assumption 17). FC.APPEND and every operation that receives
wire bytes outside a wait are refused and change nothing where the bytes do not fit; inside a wait LITERAL and the block's own step on
a received byte stop by name. So no operation and no step ever stores more than RX_BUF_CAP. -/
def Obligations.OverflowIsNeverStored : Prop :=
  ∀ (bytes : List Byte) (b : Byte) (cap : Nat) (s : State), s.config.rxBufCap = some cap →
    (cap < s.rxbuf.length + bytes.length → exec (.fcAppend bytes) s = .next { s with reply := some .refused }) ∧
    (cap < s.rxbuf.length + 1 → s.arqState ≠ .awaitingAck → exec (.literal b) s = .next { s with reply := some .refused }) ∧
    (cap < s.rxbuf.length + 1 → s.arqState = .awaitingAck → exec (.literal b) s = .refused .rxBufOverflow) ∧
    (∀ i fmt, encode i = some (fmt, bytes) → fmt = .wireByte ∨ fmt = .wireBytePair ∨ fmt = .wireFrame →
      cap < s.rxbuf.length + bytes.length → s.arqState ≠ .awaitingAck → exec i s = .next { s with reply := some .refused }) ∧
    (∀ rest, s.arqState = .awaitingAck → s.chan.rxIn = .byte b :: rest → cap < s.rxbuf.length + 1 →
      step s = .refused .rxBufOverflow) ∧
    (s.rxbuf.length ≤ cap → ∀ t, (∃ i, exec i s = .next t) ∨ step s = .next t → t.rxbuf.length ≤ cap)

/-! ## The step -/

/-- A step runs the decoded instruction: on the host's turn, with no task in hand, the request at the head of the program, be it a word
that decodes or a named operation, is taken and executed; bytes that are no word of their format are taken and refused, and nothing else
changes (assumption 12). -/
def Obligations.StepRunsTheFetchedRequest : Prop :=
  ∀ (s : State) (rest : List Request), hostHasTurn s.arqState = true → s.host.tasks = [] →
    (∀ fmt bytes i, s.host.program = .word fmt bytes :: rest → decode fmt bytes = .ok i →
      step s = exec i { s with host := { s.host with program := rest } }) ∧
    (∀ fmt bytes e, s.host.program = .word fmt bytes :: rest → decode fmt bytes = .error e →
      step s = .next { s with host := { s.host with program := rest }, reply := some .refused }) ∧
    (∀ i, s.host.program = .op i :: rest → step s = exec i { s with host := { s.host with program := rest } }) ∧
    (s.host.program = [] → step s = .next s)

/-- A step in `Idle` runs the next task of the pseudo-operation in hand: an RT.SEND, a wait that is recorded, or a progress event;
in `Failed` and `Closed` it aborts the pseudo-operation (R173, R175). -/
def Obligations.StepRunsTheHostTasks : Prop :=
  ∀ (s : State) (ts : List HostTask),
    (∀ type payload, s.arqState = .idle → s.host.tasks = .send type payload :: ts →
      step s = exec (.rtSend type payload) { s with host := { s.host with tasks := ts } }) ∧
    (∀ time, s.arqState = .idle → s.host.tasks = .wait time :: ts →
      step s = .next { s with host := { s.host with tasks := ts, waits := s.host.waits ++ [time] } }) ∧
    (∀ k n, s.arqState = .idle → s.host.tasks = .progress k n :: ts →
      ∃ percent done message m, (percent = k * 100 / n ∨ percent = k * 100 / n + 1) ∧
        (k * 100 % n = 0 → percent = k * 100 / n) ∧
        step s = .next { s with
          host := { s.host with tasks := ts }, events := s.events ++ [.progress percent done message], freeCount := m }) ∧
    (s.arqState = .failed ∨ s.arqState = .closed → s.host.tasks ≠ [] →
      step s = .next { s with host := { s.host with tasks := [] } })

/-- Inside an RT.SEND the step is the one transition of R154 that the state and the wait's next input call for. For a received byte: no
frame complete, T.RX_BYTE; else by the first frame, T.FRAME_ACK, T.FRAME_NAK or T.FRAME_ERR. That nothing arrives, and so T.RX_BYTE, where the
list of inputs is empty is the model's choice (assumption 2). -/
def Obligations.StepTakesTheTransition : Prop :=
  ∀ s : State, InSend s → ∃ i, isTransition i = true ∧ step s = exec i s ∧
    (s.arqState = .sending → i = .tTransmit) ∧ (s.arqState = .acked → i = .tDone) ∧
    (∀ n, s.arqState = .retrying ∨ s.arqState = .timedOut → s.attempts = some n →
      (n ≤ 3 → i = .tRetry) ∧ (n > 3 → i = .tExhaust)) ∧
    (∀ rest, s.arqState = .awaitingAck →
      (s.chan.rxIn = .timeout :: rest → i = .tTimeout) ∧ (s.chan.rxIn = .error :: rest → i = .tChanErr) ∧
      (s.chan.rxIn = .nothing :: rest → i = .tRxByte) ∧ (s.chan.rxIn = [] → i = .tRxByte)) ∧
    (∀ b rest, s.arqState = .awaitingAck → s.chan.rxIn = .byte b :: rest →
      ((s.rxbuf ++ [b]).count 0xC0#8 ≤ 1 → i = .tRxByte) ∧
      (∀ f more stay, Cuts (s.rxbuf ++ [b]) (f :: more) stay →
        (∀ p q, exec (.pkDecode f) s = .next { s with reply := some (.packet p) } → s.txSeq = some q →
          (p.header.ack = q + 1#3 → i = .tFrameAck) ∧ (p.header.ack ≠ q + 1#3 → i = .tFrameNak)) ∧
        (∀ e, exec (.pkDecode f) s = .next { s with reply := some (.raised e) } → i = .tFrameErr)))

/-! ## Encoding -/

/-- Decoding the word of a well-formed instruction gives it back, with every operand, for every row that has bits. -/
def Obligations.DecodeEncodeAgree : Prop :=
  ∀ (i : Instr) (fmt : Format) (bytes : List Byte), i.wf = true → encode i = some (fmt, bytes) → decode fmt bytes = .ok i

/-- Encoding what was decoded gives the bytes back: no two words of a format decode to one instruction. -/
def Obligations.EncodeDecodeAgree : Prop :=
  ∀ (i : Instr) (fmt : Format) (bytes : List Byte), decode fmt bytes = .ok i → encode i = some (fmt, bytes)

/-- Words written out from 30_encoding and the table decode to the operations they stand for. -/
def Obligations.SampleWordsDecode : Prop :=
  decodeTableWord 8 0xC0 = some .marker ∧ decodeTableWord 8 0xDB = some .esc ∧ decodeTableWord 8 0xDC = some (.literal 0xDC#8) ∧
  decodeTableWord 16 0xDBDC = some .escMarker ∧ decodeTableWord 16 0xDBDD = some .escEsc ∧
  decodeTableWord 16 0xDBC0 = some (.illegalEscape 0xC0#8) ∧
  decodeTableWord 32 0xC90001C8 = some (.typeInit 0#3 1#3 true true 0#12 0xC9#8) ∧
  decodeTableWord 32 0x082004E3 = some (.typeData 3#3 4#3 true true 512#12 0x08#8)

/-! ## The whole machine -/

/-- R25, R230 (a): at power-on `arq_state` is `Closed`, `rxbuf` and `events` are empty and every other register holds no value; the
invariant of R26 holds (with the handle not held: the model's choice, assumptions 27, 42). -/
def Obligations.PowerOnState : Prop :=
  State.reset.arqState = .closed ∧ State.reset.rxbuf = [] ∧ State.reset.events = [] ∧ State.reset.seqCtr = none ∧
  State.reset.attempts = none ∧ State.reset.txFrame = none ∧ State.reset.txSeq = none ∧ State.reset.failReason = none ∧
  State.reset.session = none ∧ Invariant State.reset

/-- R26: every step from a state with the invariant leads to one, whatever the host asks and the channel does. The invariant's last
clause, that the block holds the handle exactly in a session, is about the model's `chan.isOpen` (assumption 42). -/
def Obligations.StepKeepsTheInvariant : Prop :=
  ∀ s t : State, Invariant s → step s = .next t → Invariant t

/-- R25: from a state with the invariant no step reads a register that holds no value. -/
def Obligations.StepReadsNoEmptyRegister : Prop :=
  ∀ s : State, Invariant s → SafeStep s

/-- R154, R157: inside an RT.SEND the block always has its next step: it is never stuck and never stops, whatever the channel does
(with an unbounded `rxbuf`). -/
def Obligations.SendNeverGetsStuck : Prop :=
  ∀ s : State, Invariant s → InSend s → s.config.rxBufCap = none → ∃ t, step s = .next t

/-- R157: RT.SEND always ends. Inside an RT.SEND, if the timer gives its timeout often enough (four times in what the waits will
meet), the block reaches `Idle` or `Failed`, in a bounded number of steps, with its reply given. -/
def Obligations.RtSendAlwaysEnds : Prop :=
  ∀ s : State, Invariant s → InSend s → s.config.rxBufCap = none → 4 ≤ s.chan.rxIn.count .timeout →
    ∃ k t, k ≤ s.chan.rxIn.length + 8 ∧ core.run k s = .next t ∧
      ((t.arqState = .idle ∧ t.reply = some .ok) ∨
        (t.arqState = .failed ∧ (t.reply = some (.raised .retryExhausted) ∨ t.reply = some (.raised .channelError))))

/-- R156, S14: a peer that stays silent. An accepted RT.SEND whose four waits all time out, and whose four writes do not fail (scripted ok,
or not scripted, assumption 2), writes the same frame four times, raises four TIMEOUT events, and replies RetryExhausted in `Failed` with
the counter at 0. -/
def Obligations.SilentPeerExhaustsFourAttempts : Prop :=
  ∀ (type : Nat) (payload : List Byte) (q : Seq) (rest : List RxInput) (s : State), s.arqState = .idle → s.seqCtr = some q →
    type ≤ 15 → payload.length ≤ 512 → (∀ a ∈ s.chan.writeAnswers.take 4, a = .ok) →
    s.chan.rxIn = [.timeout, .timeout, .timeout, .timeout] ++ rest →
    ∃ u f t, exec (.rtSend type payload) s = .next u ∧ u.txFrame = some f ∧ core.run 12 u = .next t ∧
      t.arqState = .failed ∧ t.failReason = some .retryExhausted ∧ t.reply = some (.raised .retryExhausted) ∧
      t.seqCtr = some 0#3 ∧ t.txSeq = some q ∧ t.attempts = some 4 ∧ t.rxbuf = s.rxbuf ∧
      t.chan.tx = s.chan.tx ++ f ++ f ++ f ++ f ∧ t.chan.rxIn = rest ∧ t.chan.writeAnswers = s.chan.writeAnswers.drop 4 ∧
      ∃ m1 m2 m3 m4, t.events = s.events ++ [.timeout m1, .timeout m2, .timeout m3, .timeout m4]

/-- R141 to R149: an acknowledgment at once. If the write does not fail (scripted ok, or not scripted, assumption 2) and the first frame of
the first wait fits and decodes with the expected `ack`, RT.SEND replies ok after one write: whatever else the packet holds, and whatever
comes behind it stays in the channel. -/
def Obligations.PromptAckCompletesTheSend : Prop :=
  ∀ (type : Nat) (payload raw : List Byte) (p : Packet) (q : Seq) (rest : List RxInput) (s : State),
    s.arqState = .idle → s.seqCtr = some q → type ≤ 15 → payload.length ≤ 512 → (∀ a ∈ s.chan.writeAnswers.take 1, a = .ok) →
    Fits s (wireFrame raw).length → NoMarker s.rxbuf →
    exec (.rawPacket raw) s = .next { s with reply := some (.packet p) } → p.header.ack = q + 1#3 →
    s.chan.rxIn = (wireFrame raw).map .byte ++ rest →
    ∃ u f, exec (.rtSend type payload) s = .next u ∧ u.txFrame = some f ∧
      core.run ((wireFrame raw).length + 2) u = .next { s with
        rxbuf := [], txSeq := some q, seqCtr := some (q + 1#3), txFrame := some f, attempts := some 1,
        reply := some .ok,
        chan := { s.chan with tx := s.chan.tx ++ f, rxIn := rest, writeAnswers := s.chan.writeAnswers.drop 1 } }

/-- R152: no operation but RT.CLOSE leaves `Failed`, none changes the reason, and none but the channel's own write writes to the
channel; RT.SEND replies the stored error and touches nothing. -/
def Obligations.FailedIsFinal : Prop :=
  ∀ s : State, s.arqState = .failed →
    (∀ (i : Instr) (t : State), i ≠ .rtClose → exec i s = .next t →
      t.arqState = .failed ∧ t.failReason = s.failReason ∧ ((∀ bs, i ≠ .chanWrite bs) → t.chan.tx = s.chan.tx)) ∧
    (∀ (type : Nat) (payload : List Byte), type ≤ 15 → payload.length ≤ 512 →
      (s.failReason = some .retryExhausted →
        exec (.rtSend type payload) s = .next { s with reply := some (.raised .retryExhausted) }) ∧
      (s.failReason = some .channelError →
        exec (.rtSend type payload) s = .next { s with reply := some (.raised .channelError) }))

/-- R43, R153: of the block's own operations only T.TRANSMIT writes to the channel, and what it writes is `tx_frame`, whole, or when the
write fails a prefix of it. (ChanWrite is the primitive itself.) -/
def Obligations.OnlyTransmitWrites : Prop :=
  ∀ (i : Instr) (s t : State), (∀ bs, i ≠ .chanWrite bs) → exec i s = .next t →
    t.chan.tx = s.chan.tx ∨
    (i = .tTransmit ∧ ∃ f sent, s.txFrame = some f ∧ sent <+: f ∧ t.chan.tx = s.chan.tx ++ sent ∧
      (t.arqState = .awaitingAck → sent = f))

/-- R11: the counter is set to 0 by session open and timeout, advanced by one when a packet is constructed, emptied by session close,
and written by nothing else. -/
def Obligations.CounterChangesOnlyWhereStated : Prop :=
  ∀ (i : Instr) (s t : State), exec i s = .next t →
    t.seqCtr = s.seqCtr ∨
    (t.seqCtr = some 0#3 ∧ (i = .tTimeout ∨ ∃ a n, i = .rtOpen a n)) ∨
    (constructsPacket i = true ∧ s.arqState = .idle ∧ ∃ q, s.seqCtr = some q ∧ t.seqCtr = some (q + 1#3) ∧ t.txSeq = some q) ∨
    (i = .rtClose ∧ t.seqCtr = none)

/-- R14, R15, R53: `tx_frame` and `tx_seq` change only together, when an RT.SEND is accepted in `Idle` or the session is closed. So every
attempt of one logical packet writes the same bytes. -/
def Obligations.PacketIsImmutable : Prop :=
  ∀ (i : Instr) (s t : State), exec i s = .next t →
    (t.txFrame = s.txFrame ∧ t.txSeq = s.txSeq) ∨
    (constructsPacket i = true ∧ s.arqState = .idle ∧ t.arqState = .sending ∧ t.txSeq = s.seqCtr) ∨
    (i = .rtClose ∧ t.txFrame = none ∧ t.txSeq = none)

/-- R17: no step takes an event back or changes one: the event output only grows, by at most one event a step. -/
def Obligations.EventsOnlyGrow : Prop :=
  ∀ s t : State, step s = .next t → t.events = s.events ∨ ∃ e, t.events = s.events ++ [e]

/-- R4, R18: no step changes a parameter; the session's configuration changes only at RT.OPEN and RT.CLOSE. R10: `rxbuf` is written only
by the operations that receive, append, decode, open or close. -/
def Obligations.ConfigurationIsReadOnly : Prop :=
  ∀ (i : Instr) (s t : State), exec i s = .next t →
    t.config = s.config ∧
    ((∀ a n, i ≠ .rtOpen a n) → i ≠ .rtClose → t.session = s.session) ∧
    (touchesRxbuf i = false → t.rxbuf = s.rxbuf)
end

