-- ==== Sys2Proof/Laws/Codec.lean ====
section
/-! SUPPORT. What the Frame Codec's functions do, said once: splitting at a marker, one turn of R101's loop, and which errors the
codecs can raise. -/

namespace Sys2Proof.Machine

theorem splitMarker_eq_none {l : List Byte} : splitMarker l = none ↔ markerByte ∉ l := by
  induction l with
  | nil => simp [splitMarker]
  | cons b bs ih =>
    by_cases h : b = markerByte
    · simp [splitMarker, h]
    · have h' : markerByte ≠ b := fun e => h e.symm
      cases hs : splitMarker bs with
      | none => simp [splitMarker, h, hs, h', ih.mp hs]
      | some p =>
        have : markerByte ∈ bs := by
          by_contra hn
          rw [ih.mpr hn] at hs
          cases hs
        simp [splitMarker, h, hs, this]

theorem splitMarker_append {pre : List Byte} (rest : List Byte) (h : markerByte ∉ pre) :
    splitMarker (pre ++ markerByte :: rest) = some (pre, rest) := by
  induction pre with
  | nil => simp [splitMarker]
  | cons b bs ih =>
    simp only [List.mem_cons, not_or] at h
    simp [splitMarker, Ne.symm h.1, ih h.2]

theorem splitMarker_eq_some {l pre rest : List Byte} (h : splitMarker l = some (pre, rest)) :
    l = pre ++ markerByte :: rest ∧ markerByte ∉ pre := by
  induction l generalizing pre with
  | nil => simp [splitMarker] at h
  | cons b bs ih =>
    by_cases hb : b = markerByte
    · simp only [splitMarker, hb, if_true, Option.some.injEq, Prod.mk.injEq] at h
      obtain ⟨rfl, rfl⟩ := h
      simp [hb]
    · cases hs : splitMarker bs with
      | none => simp [splitMarker, hb, hs] at h
      | some p =>
        simp only [splitMarker, hb, if_false, hs, Option.some.injEq, Prod.mk.injEq] at h
        obtain ⟨rfl, rfl⟩ := h
        obtain ⟨h1, h2⟩ := ih (pre := p.1) hs
        exact ⟨by simp [← h1], by simp [Ne.symm hb, h2]⟩

theorem cutFrames_of_no_frame {buf : List Byte} (fuel : Nat)
    (h : ∀ pre afterOpen, splitMarker buf = some (pre, afterOpen) → splitMarker afterOpen = none) :
    cutFrames fuel buf = ([], buf) := by
  cases fuel with
  | zero => rfl
  | succ n =>
    cases hs : splitMarker buf with
    | none => simp [cutFrames, hs]
    | some p => simp [cutFrames, hs, h p.1 p.2 hs]

/-- More turns than bytes change nothing. -/
theorem cutFrames_fuel {n m : Nat} {buf : List Byte} (hn : buf.length ≤ n) (hm : buf.length ≤ m) :
    cutFrames n buf = cutFrames m buf := by
  induction n generalizing m buf with
  | zero =>
    have : buf = [] := List.length_eq_zero_iff.mp (by omega)
    subst this
    exact (cutFrames_of_no_frame m (by simp [splitMarker])).symm
  | succ n ih =>
    cases m with
    | zero =>
      have : buf = [] := List.length_eq_zero_iff.mp (by omega)
      subst this
      exact cutFrames_of_no_frame _ (by simp [splitMarker])
    | succ m =>
      cases hs : splitMarker buf with
      | none => simp [cutFrames, hs]
      | some p =>
        cases ht : splitMarker p.2 with
        | none => simp [cutFrames, hs, ht]
        | some q =>
          have h1 := congrArg List.length (splitMarker_eq_some (pre := p.1) (rest := p.2) hs).1
          have h2 := congrArg List.length (splitMarker_eq_some (pre := q.1) (rest := q.2) ht).1
          simp only [List.length_append, List.length_cons] at h1 h2
          simp only [cutFrames, hs, ht]
          rw [ih (m := m) (by omega) (by omega)]

/-- A buffer without a complete frame stays as it is (R101: "None: stop"). -/
theorem extractFrames_of_no_frame {buf : List Byte}
    (h : ∀ pre afterOpen, splitMarker buf = some (pre, afterOpen) → splitMarker afterOpen = none) :
    extractFrames buf = ([], buf) := cutFrames_of_no_frame _ h

/-- One turn of R101's loop: the first two markers cut the first frame. -/
theorem extractFrames_turn {pre content : List Byte} (rest : List Byte) (hpre : markerByte ∉ pre)
    (hcontent : markerByte ∉ content) :
    extractFrames (pre ++ markerByte :: (content ++ markerByte :: rest)) =
      (delimit content :: (extractFrames rest).1, (extractFrames rest).2) := by
  have hlen : (pre ++ markerByte :: (content ++ markerByte :: rest)).length =
      (pre.length + content.length + rest.length + 1) + 1 := by simp; omega
  unfold extractFrames
  rw [hlen, cutFrames.eq_2]
  simp only [splitMarker_append _ hpre, splitMarker_append _ hcontent]
  rw [cutFrames_fuel (m := rest.length) (by omega) (by omega)]

theorem extractFrames_no_marker {buf : List Byte} (h : markerByte ∉ buf) : extractFrames buf = ([], buf) :=
  extractFrames_of_no_frame (by simp [splitMarker_eq_none.mpr h])

theorem extractFrames_one_marker {pre content : List Byte} (hpre : markerByte ∉ pre) (hcontent : markerByte ∉ content) :
    extractFrames (pre ++ markerByte :: content) = ([], pre ++ markerByte :: content) := by
  apply extractFrames_of_no_frame
  intro a b h
  rw [splitMarker_append _ hpre] at h
  simp only [Option.some.injEq, Prod.mk.injEq] at h
  rw [← h.2]
  exact splitMarker_eq_none.mpr hcontent

/-- A buffer holds no complete frame, or its first two markers cut one. -/
theorem extractFrames_cases (buf : List Byte) :
    (∀ pre afterOpen, splitMarker buf = some (pre, afterOpen) → splitMarker afterOpen = none) ∨
      ∃ pre content rest, markerByte ∉ pre ∧ markerByte ∉ content ∧
        buf = pre ++ markerByte :: (content ++ markerByte :: rest) := by
  cases hs : splitMarker buf with
  | none => exact .inl (by simp)
  | some p =>
    obtain ⟨pre, afterOpen⟩ := p
    cases ht : splitMarker afterOpen with
    | none =>
      left
      intro a b h
      simp only [Option.some.injEq, Prod.mk.injEq] at h
      exact h.2 ▸ ht
    | some q =>
      obtain ⟨content, rest⟩ := q
      obtain ⟨h1, h2⟩ := splitMarker_eq_some hs
      obtain ⟨h3, h4⟩ := splitMarker_eq_some ht
      exact .inr ⟨pre, content, rest, h2, h4, by rw [h1, h3]⟩

/-- FC.DECODE after each piece gives what one FC.DECODE of the whole gives (R106). -/
theorem extractFrames_append (a b : List Byte) :
    extractFrames (a ++ b) = ((extractFrames a).1 ++ (extractFrames ((extractFrames a).2 ++ b)).1,
      (extractFrames ((extractFrames a).2 ++ b)).2) := by
  induction hn : a.length using Nat.strongRecOn generalizing a with
  | ind n ih =>
    obtain h | ⟨pre, content, rest, hpre, hcontent, rfl⟩ := extractFrames_cases a
    · simp [extractFrames_of_no_frame h]
    · have hlen : rest.length < n := by rw [← hn]; simp; omega
      have key := ih rest.length hlen rest rfl
      rw [List.append_assoc, List.cons_append, List.append_assoc, List.cons_append, extractFrames_turn _ hpre hcontent,
        extractFrames_turn _ hpre hcontent, key]
      rfl

/-- What stays in the buffer is no longer than the buffer. -/
theorem extractFrames_length (buf : List Byte) : (extractFrames buf).2.length ≤ buf.length := by
  induction hn : buf.length using Nat.strongRecOn generalizing buf with
  | ind n ih =>
    obtain h | ⟨pre, content, rest, hpre, hcontent, rfl⟩ := extractFrames_cases buf
    · simp [extractFrames_of_no_frame h, hn]
    · have hlen : rest.length < n := by rw [← hn]; simp; omega
      rw [extractFrames_turn _ hpre hcontent]
      exact (ih rest.length hlen rest rfl).trans hlen.le

/-- The content of a delimited frame. -/
@[simp] theorem frameContent_delimit (content : List Byte) : frameContent (delimit content) = content := by
  simp [frameContent, delimit]

/-- FC.DECODE_ESCAPES raises MalformedEscape and nothing else (R103). -/
theorem unescape_error {e : Err} {l : List Byte} {p : Bool} (h : unescape p l = .error e) : e = .malformedEscape := by
  induction l generalizing p with
  | nil => cases p <;> simp_all [unescape]
  | cons b bs ih =>
    have key : ∀ c, consByte c (unescape false bs) = .error e → e = .malformedEscape := by
      intro c hc
      cases hu : unescape false bs with
      | ok r => simp [consByte, hu] at hc
      | error e' =>
        simp only [consByte, hu, Except.error.injEq] at hc
        exact ih (hc ▸ hu)
    cases p with
    | false =>
      simp only [unescape] at h
      split at h
      · exact ih h
      · exact key _ h
    | true =>
      simp only [unescape] at h
      split at h
      · exact key _ h
      · split at h
        · exact key _ h
        · simpa using h.symm

/-- The three errors of PK.DECODE (R125). -/
theorem decodeRaw_error {cfg : Config} {u : List Byte} {e : Err} (h : decodeRaw cfg u = .error e) :
    e = .truncatedPacket ∨ e = .crcMismatch := by
  unfold decodeRaw at h
  split at h
  · left; simpa using h.symm
  · simp only at h
    split at h
    · left; simpa using h.symm
    · split at h
      · right; simpa using h.symm
      · cases h

theorem decodeFrame_error {cfg : Config} {f : List Byte} {e : Err} (h : decodeFrame cfg f = .error e) :
    e = .malformedEscape ∨ e = .truncatedPacket ∨ e = .crcMismatch := by
  unfold decodeFrame decodeContent at h
  split at h
  · rename_i e' he
    simp only [Except.error.injEq] at h
    exact .inl (unescape_error (p := false) (l := frameContent f) (h ▸ he))
  · exact .inr (decodeRaw_error h)

end Sys2Proof.Machine
end

