-- ==== Sys2Proof/Laws/State.lean ====
section
/-! SUPPORT. One lemma per field per update of State, each true by rfl. -/

namespace Sys2Proof.Machine.State


section withRxbuf
variable (s : State) (v : List Byte)

@[simp] theorem withRxbuf_rxbuf : (s.withRxbuf v).rxbuf = v := rfl
@[simp] theorem withRxbuf_seqCtr : (s.withRxbuf v).seqCtr = s.seqCtr := rfl
@[simp] theorem withRxbuf_arqState : (s.withRxbuf v).arqState = s.arqState := rfl
@[simp] theorem withRxbuf_attempts : (s.withRxbuf v).attempts = s.attempts := rfl
@[simp] theorem withRxbuf_txFrame : (s.withRxbuf v).txFrame = s.txFrame := rfl
@[simp] theorem withRxbuf_txSeq : (s.withRxbuf v).txSeq = s.txSeq := rfl
@[simp] theorem withRxbuf_failReason : (s.withRxbuf v).failReason = s.failReason := rfl
@[simp] theorem withRxbuf_events : (s.withRxbuf v).events = s.events := rfl
@[simp] theorem withRxbuf_session : (s.withRxbuf v).session = s.session := rfl
@[simp] theorem withRxbuf_reply : (s.withRxbuf v).reply = s.reply := rfl
@[simp] theorem withRxbuf_chan : (s.withRxbuf v).chan = s.chan := rfl
@[simp] theorem withRxbuf_host : (s.withRxbuf v).host = s.host := rfl
@[simp] theorem withRxbuf_config : (s.withRxbuf v).config = s.config := rfl
@[simp] theorem withRxbuf_freeCount : (s.withRxbuf v).freeCount = s.freeCount := rfl

end withRxbuf

section withSeqCtr
variable (s : State) (v : Option Seq)

@[simp] theorem withSeqCtr_rxbuf : (s.withSeqCtr v).rxbuf = s.rxbuf := rfl
@[simp] theorem withSeqCtr_seqCtr : (s.withSeqCtr v).seqCtr = v := rfl
@[simp] theorem withSeqCtr_arqState : (s.withSeqCtr v).arqState = s.arqState := rfl
@[simp] theorem withSeqCtr_attempts : (s.withSeqCtr v).attempts = s.attempts := rfl
@[simp] theorem withSeqCtr_txFrame : (s.withSeqCtr v).txFrame = s.txFrame := rfl
@[simp] theorem withSeqCtr_txSeq : (s.withSeqCtr v).txSeq = s.txSeq := rfl
@[simp] theorem withSeqCtr_failReason : (s.withSeqCtr v).failReason = s.failReason := rfl
@[simp] theorem withSeqCtr_events : (s.withSeqCtr v).events = s.events := rfl
@[simp] theorem withSeqCtr_session : (s.withSeqCtr v).session = s.session := rfl
@[simp] theorem withSeqCtr_reply : (s.withSeqCtr v).reply = s.reply := rfl
@[simp] theorem withSeqCtr_chan : (s.withSeqCtr v).chan = s.chan := rfl
@[simp] theorem withSeqCtr_host : (s.withSeqCtr v).host = s.host := rfl
@[simp] theorem withSeqCtr_config : (s.withSeqCtr v).config = s.config := rfl
@[simp] theorem withSeqCtr_freeCount : (s.withSeqCtr v).freeCount = s.freeCount := rfl

end withSeqCtr

section withArq
variable (s : State) (v : ArqState)

@[simp] theorem withArq_rxbuf : (s.withArq v).rxbuf = s.rxbuf := rfl
@[simp] theorem withArq_seqCtr : (s.withArq v).seqCtr = s.seqCtr := rfl
@[simp] theorem withArq_arqState : (s.withArq v).arqState = v := rfl
@[simp] theorem withArq_attempts : (s.withArq v).attempts = s.attempts := rfl
@[simp] theorem withArq_txFrame : (s.withArq v).txFrame = s.txFrame := rfl
@[simp] theorem withArq_txSeq : (s.withArq v).txSeq = s.txSeq := rfl
@[simp] theorem withArq_failReason : (s.withArq v).failReason = s.failReason := rfl
@[simp] theorem withArq_events : (s.withArq v).events = s.events := rfl
@[simp] theorem withArq_session : (s.withArq v).session = s.session := rfl
@[simp] theorem withArq_reply : (s.withArq v).reply = s.reply := rfl
@[simp] theorem withArq_chan : (s.withArq v).chan = s.chan := rfl
@[simp] theorem withArq_host : (s.withArq v).host = s.host := rfl
@[simp] theorem withArq_config : (s.withArq v).config = s.config := rfl
@[simp] theorem withArq_freeCount : (s.withArq v).freeCount = s.freeCount := rfl

end withArq

section withAttempts
variable (s : State) (v : Option Nat)

@[simp] theorem withAttempts_rxbuf : (s.withAttempts v).rxbuf = s.rxbuf := rfl
@[simp] theorem withAttempts_seqCtr : (s.withAttempts v).seqCtr = s.seqCtr := rfl
@[simp] theorem withAttempts_arqState : (s.withAttempts v).arqState = s.arqState := rfl
@[simp] theorem withAttempts_attempts : (s.withAttempts v).attempts = v := rfl
@[simp] theorem withAttempts_txFrame : (s.withAttempts v).txFrame = s.txFrame := rfl
@[simp] theorem withAttempts_txSeq : (s.withAttempts v).txSeq = s.txSeq := rfl
@[simp] theorem withAttempts_failReason : (s.withAttempts v).failReason = s.failReason := rfl
@[simp] theorem withAttempts_events : (s.withAttempts v).events = s.events := rfl
@[simp] theorem withAttempts_session : (s.withAttempts v).session = s.session := rfl
@[simp] theorem withAttempts_reply : (s.withAttempts v).reply = s.reply := rfl
@[simp] theorem withAttempts_chan : (s.withAttempts v).chan = s.chan := rfl
@[simp] theorem withAttempts_host : (s.withAttempts v).host = s.host := rfl
@[simp] theorem withAttempts_config : (s.withAttempts v).config = s.config := rfl
@[simp] theorem withAttempts_freeCount : (s.withAttempts v).freeCount = s.freeCount := rfl

end withAttempts

section withTxFrame
variable (s : State) (v : Option (List Byte))

@[simp] theorem withTxFrame_rxbuf : (s.withTxFrame v).rxbuf = s.rxbuf := rfl
@[simp] theorem withTxFrame_seqCtr : (s.withTxFrame v).seqCtr = s.seqCtr := rfl
@[simp] theorem withTxFrame_arqState : (s.withTxFrame v).arqState = s.arqState := rfl
@[simp] theorem withTxFrame_attempts : (s.withTxFrame v).attempts = s.attempts := rfl
@[simp] theorem withTxFrame_txFrame : (s.withTxFrame v).txFrame = v := rfl
@[simp] theorem withTxFrame_txSeq : (s.withTxFrame v).txSeq = s.txSeq := rfl
@[simp] theorem withTxFrame_failReason : (s.withTxFrame v).failReason = s.failReason := rfl
@[simp] theorem withTxFrame_events : (s.withTxFrame v).events = s.events := rfl
@[simp] theorem withTxFrame_session : (s.withTxFrame v).session = s.session := rfl
@[simp] theorem withTxFrame_reply : (s.withTxFrame v).reply = s.reply := rfl
@[simp] theorem withTxFrame_chan : (s.withTxFrame v).chan = s.chan := rfl
@[simp] theorem withTxFrame_host : (s.withTxFrame v).host = s.host := rfl
@[simp] theorem withTxFrame_config : (s.withTxFrame v).config = s.config := rfl
@[simp] theorem withTxFrame_freeCount : (s.withTxFrame v).freeCount = s.freeCount := rfl

end withTxFrame

section withTxSeq
variable (s : State) (v : Option Seq)

@[simp] theorem withTxSeq_rxbuf : (s.withTxSeq v).rxbuf = s.rxbuf := rfl
@[simp] theorem withTxSeq_seqCtr : (s.withTxSeq v).seqCtr = s.seqCtr := rfl
@[simp] theorem withTxSeq_arqState : (s.withTxSeq v).arqState = s.arqState := rfl
@[simp] theorem withTxSeq_attempts : (s.withTxSeq v).attempts = s.attempts := rfl
@[simp] theorem withTxSeq_txFrame : (s.withTxSeq v).txFrame = s.txFrame := rfl
@[simp] theorem withTxSeq_txSeq : (s.withTxSeq v).txSeq = v := rfl
@[simp] theorem withTxSeq_failReason : (s.withTxSeq v).failReason = s.failReason := rfl
@[simp] theorem withTxSeq_events : (s.withTxSeq v).events = s.events := rfl
@[simp] theorem withTxSeq_session : (s.withTxSeq v).session = s.session := rfl
@[simp] theorem withTxSeq_reply : (s.withTxSeq v).reply = s.reply := rfl
@[simp] theorem withTxSeq_chan : (s.withTxSeq v).chan = s.chan := rfl
@[simp] theorem withTxSeq_host : (s.withTxSeq v).host = s.host := rfl
@[simp] theorem withTxSeq_config : (s.withTxSeq v).config = s.config := rfl
@[simp] theorem withTxSeq_freeCount : (s.withTxSeq v).freeCount = s.freeCount := rfl

end withTxSeq

section withFailReason
variable (s : State) (v : Option FailReason)

@[simp] theorem withFailReason_rxbuf : (s.withFailReason v).rxbuf = s.rxbuf := rfl
@[simp] theorem withFailReason_seqCtr : (s.withFailReason v).seqCtr = s.seqCtr := rfl
@[simp] theorem withFailReason_arqState : (s.withFailReason v).arqState = s.arqState := rfl
@[simp] theorem withFailReason_attempts : (s.withFailReason v).attempts = s.attempts := rfl
@[simp] theorem withFailReason_txFrame : (s.withFailReason v).txFrame = s.txFrame := rfl
@[simp] theorem withFailReason_txSeq : (s.withFailReason v).txSeq = s.txSeq := rfl
@[simp] theorem withFailReason_failReason : (s.withFailReason v).failReason = v := rfl
@[simp] theorem withFailReason_events : (s.withFailReason v).events = s.events := rfl
@[simp] theorem withFailReason_session : (s.withFailReason v).session = s.session := rfl
@[simp] theorem withFailReason_reply : (s.withFailReason v).reply = s.reply := rfl
@[simp] theorem withFailReason_chan : (s.withFailReason v).chan = s.chan := rfl
@[simp] theorem withFailReason_host : (s.withFailReason v).host = s.host := rfl
@[simp] theorem withFailReason_config : (s.withFailReason v).config = s.config := rfl
@[simp] theorem withFailReason_freeCount : (s.withFailReason v).freeCount = s.freeCount := rfl

end withFailReason

section withEvents
variable (s : State) (v : List Event)

@[simp] theorem withEvents_rxbuf : (s.withEvents v).rxbuf = s.rxbuf := rfl
@[simp] theorem withEvents_seqCtr : (s.withEvents v).seqCtr = s.seqCtr := rfl
@[simp] theorem withEvents_arqState : (s.withEvents v).arqState = s.arqState := rfl
@[simp] theorem withEvents_attempts : (s.withEvents v).attempts = s.attempts := rfl
@[simp] theorem withEvents_txFrame : (s.withEvents v).txFrame = s.txFrame := rfl
@[simp] theorem withEvents_txSeq : (s.withEvents v).txSeq = s.txSeq := rfl
@[simp] theorem withEvents_failReason : (s.withEvents v).failReason = s.failReason := rfl
@[simp] theorem withEvents_events : (s.withEvents v).events = v := rfl
@[simp] theorem withEvents_session : (s.withEvents v).session = s.session := rfl
@[simp] theorem withEvents_reply : (s.withEvents v).reply = s.reply := rfl
@[simp] theorem withEvents_chan : (s.withEvents v).chan = s.chan := rfl
@[simp] theorem withEvents_host : (s.withEvents v).host = s.host := rfl
@[simp] theorem withEvents_config : (s.withEvents v).config = s.config := rfl
@[simp] theorem withEvents_freeCount : (s.withEvents v).freeCount = s.freeCount := rfl

end withEvents

section withSession
variable (s : State) (v : Option Session)

@[simp] theorem withSession_rxbuf : (s.withSession v).rxbuf = s.rxbuf := rfl
@[simp] theorem withSession_seqCtr : (s.withSession v).seqCtr = s.seqCtr := rfl
@[simp] theorem withSession_arqState : (s.withSession v).arqState = s.arqState := rfl
@[simp] theorem withSession_attempts : (s.withSession v).attempts = s.attempts := rfl
@[simp] theorem withSession_txFrame : (s.withSession v).txFrame = s.txFrame := rfl
@[simp] theorem withSession_txSeq : (s.withSession v).txSeq = s.txSeq := rfl
@[simp] theorem withSession_failReason : (s.withSession v).failReason = s.failReason := rfl
@[simp] theorem withSession_events : (s.withSession v).events = s.events := rfl
@[simp] theorem withSession_session : (s.withSession v).session = v := rfl
@[simp] theorem withSession_reply : (s.withSession v).reply = s.reply := rfl
@[simp] theorem withSession_chan : (s.withSession v).chan = s.chan := rfl
@[simp] theorem withSession_host : (s.withSession v).host = s.host := rfl
@[simp] theorem withSession_config : (s.withSession v).config = s.config := rfl
@[simp] theorem withSession_freeCount : (s.withSession v).freeCount = s.freeCount := rfl

end withSession

section withReply
variable (s : State) (v : Option Reply)

@[simp] theorem withReply_rxbuf : (s.withReply v).rxbuf = s.rxbuf := rfl
@[simp] theorem withReply_seqCtr : (s.withReply v).seqCtr = s.seqCtr := rfl
@[simp] theorem withReply_arqState : (s.withReply v).arqState = s.arqState := rfl
@[simp] theorem withReply_attempts : (s.withReply v).attempts = s.attempts := rfl
@[simp] theorem withReply_txFrame : (s.withReply v).txFrame = s.txFrame := rfl
@[simp] theorem withReply_txSeq : (s.withReply v).txSeq = s.txSeq := rfl
@[simp] theorem withReply_failReason : (s.withReply v).failReason = s.failReason := rfl
@[simp] theorem withReply_events : (s.withReply v).events = s.events := rfl
@[simp] theorem withReply_session : (s.withReply v).session = s.session := rfl
@[simp] theorem withReply_reply : (s.withReply v).reply = v := rfl
@[simp] theorem withReply_chan : (s.withReply v).chan = s.chan := rfl
@[simp] theorem withReply_host : (s.withReply v).host = s.host := rfl
@[simp] theorem withReply_config : (s.withReply v).config = s.config := rfl
@[simp] theorem withReply_freeCount : (s.withReply v).freeCount = s.freeCount := rfl

end withReply

section withChan
variable (s : State) (v : Channel)

@[simp] theorem withChan_rxbuf : (s.withChan v).rxbuf = s.rxbuf := rfl
@[simp] theorem withChan_seqCtr : (s.withChan v).seqCtr = s.seqCtr := rfl
@[simp] theorem withChan_arqState : (s.withChan v).arqState = s.arqState := rfl
@[simp] theorem withChan_attempts : (s.withChan v).attempts = s.attempts := rfl
@[simp] theorem withChan_txFrame : (s.withChan v).txFrame = s.txFrame := rfl
@[simp] theorem withChan_txSeq : (s.withChan v).txSeq = s.txSeq := rfl
@[simp] theorem withChan_failReason : (s.withChan v).failReason = s.failReason := rfl
@[simp] theorem withChan_events : (s.withChan v).events = s.events := rfl
@[simp] theorem withChan_session : (s.withChan v).session = s.session := rfl
@[simp] theorem withChan_reply : (s.withChan v).reply = s.reply := rfl
@[simp] theorem withChan_chan : (s.withChan v).chan = v := rfl
@[simp] theorem withChan_host : (s.withChan v).host = s.host := rfl
@[simp] theorem withChan_config : (s.withChan v).config = s.config := rfl
@[simp] theorem withChan_freeCount : (s.withChan v).freeCount = s.freeCount := rfl

end withChan

section withHost
variable (s : State) (v : HostSide)

@[simp] theorem withHost_rxbuf : (s.withHost v).rxbuf = s.rxbuf := rfl
@[simp] theorem withHost_seqCtr : (s.withHost v).seqCtr = s.seqCtr := rfl
@[simp] theorem withHost_arqState : (s.withHost v).arqState = s.arqState := rfl
@[simp] theorem withHost_attempts : (s.withHost v).attempts = s.attempts := rfl
@[simp] theorem withHost_txFrame : (s.withHost v).txFrame = s.txFrame := rfl
@[simp] theorem withHost_txSeq : (s.withHost v).txSeq = s.txSeq := rfl
@[simp] theorem withHost_failReason : (s.withHost v).failReason = s.failReason := rfl
@[simp] theorem withHost_events : (s.withHost v).events = s.events := rfl
@[simp] theorem withHost_session : (s.withHost v).session = s.session := rfl
@[simp] theorem withHost_reply : (s.withHost v).reply = s.reply := rfl
@[simp] theorem withHost_chan : (s.withHost v).chan = s.chan := rfl
@[simp] theorem withHost_host : (s.withHost v).host = v := rfl
@[simp] theorem withHost_config : (s.withHost v).config = s.config := rfl
@[simp] theorem withHost_freeCount : (s.withHost v).freeCount = s.freeCount := rfl

end withHost

section withFreeCount
variable (s : State) (v : Nat)

@[simp] theorem withFreeCount_rxbuf : (s.withFreeCount v).rxbuf = s.rxbuf := rfl
@[simp] theorem withFreeCount_seqCtr : (s.withFreeCount v).seqCtr = s.seqCtr := rfl
@[simp] theorem withFreeCount_arqState : (s.withFreeCount v).arqState = s.arqState := rfl
@[simp] theorem withFreeCount_attempts : (s.withFreeCount v).attempts = s.attempts := rfl
@[simp] theorem withFreeCount_txFrame : (s.withFreeCount v).txFrame = s.txFrame := rfl
@[simp] theorem withFreeCount_txSeq : (s.withFreeCount v).txSeq = s.txSeq := rfl
@[simp] theorem withFreeCount_failReason : (s.withFreeCount v).failReason = s.failReason := rfl
@[simp] theorem withFreeCount_events : (s.withFreeCount v).events = s.events := rfl
@[simp] theorem withFreeCount_session : (s.withFreeCount v).session = s.session := rfl
@[simp] theorem withFreeCount_reply : (s.withFreeCount v).reply = s.reply := rfl
@[simp] theorem withFreeCount_chan : (s.withFreeCount v).chan = s.chan := rfl
@[simp] theorem withFreeCount_host : (s.withFreeCount v).host = s.host := rfl
@[simp] theorem withFreeCount_config : (s.withFreeCount v).config = s.config := rfl
@[simp] theorem withFreeCount_freeCount : (s.withFreeCount v).freeCount = v := rfl

end withFreeCount

section withRxIn
variable (s : State) (v : List RxInput)

@[simp] theorem withRxIn_rxbuf : (s.withRxIn v).rxbuf = s.rxbuf := rfl
@[simp] theorem withRxIn_seqCtr : (s.withRxIn v).seqCtr = s.seqCtr := rfl
@[simp] theorem withRxIn_arqState : (s.withRxIn v).arqState = s.arqState := rfl
@[simp] theorem withRxIn_attempts : (s.withRxIn v).attempts = s.attempts := rfl
@[simp] theorem withRxIn_txFrame : (s.withRxIn v).txFrame = s.txFrame := rfl
@[simp] theorem withRxIn_txSeq : (s.withRxIn v).txSeq = s.txSeq := rfl
@[simp] theorem withRxIn_failReason : (s.withRxIn v).failReason = s.failReason := rfl
@[simp] theorem withRxIn_events : (s.withRxIn v).events = s.events := rfl
@[simp] theorem withRxIn_session : (s.withRxIn v).session = s.session := rfl
@[simp] theorem withRxIn_reply : (s.withRxIn v).reply = s.reply := rfl
@[simp] theorem withRxIn_chan : (s.withRxIn v).chan = { s.chan with rxIn := v } := rfl
@[simp] theorem withRxIn_host : (s.withRxIn v).host = s.host := rfl
@[simp] theorem withRxIn_config : (s.withRxIn v).config = s.config := rfl
@[simp] theorem withRxIn_freeCount : (s.withRxIn v).freeCount = s.freeCount := rfl

end withRxIn

end Sys2Proof.Machine.State
end

