-- ==== Sys2Proof/Laws/Ops.lean ====
section
/-! SUPPORT. What each shared operation can do, said once: if it answers a next state, then one of these. -/

namespace Sys2Proof.Machine

/-! ## Errors (60 R210) -/

theorem enterError_decode {e : Err} (h : e = .malformedEscape ∨ e = .truncatedPacket ∨ e = .crcMismatch) (s : State) :
    enterError e s = s.withArq .retrying := by
  rcases h with rfl | rfl | rfl <;> rfl

/-- A register that is read holds a value. -/
theorem readReg_next {α : Type} {r : Register} {value : Option α} {use : α → Result} {t : State}
    (h : readReg r value use = .next t) : ∃ a, value = some a ∧ use a = .next t := by
  cases value with
  | none => cases h
  | some a => exact ⟨a, rfl, h⟩

@[simp] theorem readReg_some {α : Type} (r : Register) (a : α) (use : α → Result) : readReg r (some a) use = use a := rfl

theorem emitWithMessage_eq (ev : String → Event) (s : State) :
    emitWithMessage ev s =
      (s.withEvents (s.events ++ [ev (Free.message s.freeCount)])).withFreeCount (s.freeCount + 1) := rfl

section enterError
variable (e : Err) (s : State)
@[simp] theorem enterError_rxbuf : (enterError e s).rxbuf = s.rxbuf := by cases e <;> rfl
@[simp] theorem enterError_attempts : (enterError e s).attempts = s.attempts := by cases e <;> rfl
@[simp] theorem enterError_txFrame : (enterError e s).txFrame = s.txFrame := by cases e <;> rfl
@[simp] theorem enterError_txSeq : (enterError e s).txSeq = s.txSeq := by cases e <;> rfl
@[simp] theorem enterError_session : (enterError e s).session = s.session := by cases e <;> rfl
@[simp] theorem enterError_chan : (enterError e s).chan = s.chan := by cases e <;> rfl
@[simp] theorem enterError_host : (enterError e s).host = s.host := by cases e <;> rfl
@[simp] theorem enterError_config : (enterError e s).config = s.config := by cases e <;> rfl
end enterError

/-! ## The channel -/

/-- ChanRead changes nothing but what the channel will still answer, and takes at most its head (20 R42). -/
theorem readChannel_state (s : State) :
    (readChannel s).2 = s ∨ (readChannel s).2 = s.withRxIn s.chan.rxIn.tail := by
  unfold readChannel
  split <;> simp_all

/-- ChanWrite hands over all the bytes, or a prefix of them and answers an error (20 R43). -/
theorem writeChannel_state (bs : List Byte) (s : State) :
    ∃ sent answers, (writeChannel bs s).2 = s.withChan { s.chan with tx := s.chan.tx ++ sent, writeAnswers := answers } ∧
      sent <+: bs ∧ ((writeChannel bs s).1 = true → sent = bs) := by
  unfold writeChannel
  split
  · exact ⟨bs, s.chan.writeAnswers, by simp, List.prefix_refl _, by simp⟩
  · rename_i rest _
    exact ⟨bs, rest, rfl, List.prefix_refl _, by simp⟩
  · rename_i n rest _
    exact ⟨bs.take n, rest, rfl, List.take_prefix _ _, by simp⟩

/-- `open` touches the handle and its own answers (43 R178). -/
theorem openChannel_state (s : State) :
    ∃ answers, (openChannel s).2 =
      s.withChan { s.chan with isOpen := if (openChannel s).1 then true else s.chan.isOpen, openAnswers := answers } := by
  unfold openChannel
  split
  · exact ⟨s.chan.openAnswers, rfl⟩
  · rename_i rest _
    exact ⟨rest, rfl⟩
  · rename_i rest _
    exact ⟨rest, rfl⟩

/-! ## The receive step (42 R143) -/

/-- A verdict that goes on leaves the wait or stays in it; nothing but `arq_state` changes. -/
theorem applyVerdict_next {v : Verdict} {s t : State} (hv : ∀ e, v = .notDecoded e →
    e = .malformedEscape ∨ e = .truncatedPacket ∨ e = .crcMismatch) (h : applyVerdict v s = .next t) :
    t = s ∨ t = s.withArq .acked ∨ t = s.withArq .retrying := by
  cases v with
  | noFrame => left; simpa [applyVerdict] using h.symm
  | accepted => right; left; simpa [applyVerdict] using h.symm
  | wrongAck => right; right; simpa [applyVerdict] using h.symm
  | notDecoded e =>
    right; right
    rw [applyVerdict, enterError_decode (hv e rfl)] at h
    simpa using h.symm
  | noTxSeq => simp [applyVerdict] at h

theorem frameVerdict_error {cfg : Config} {q : Option Seq} {f : List Byte} {e : Err}
    (h : frameVerdict cfg q f = .notDecoded e) : e = .malformedEscape ∨ e = .truncatedPacket ∨ e = .crcMismatch := by
  unfold frameVerdict at h
  split at h
  · rename_i e' he
    simp only [Verdict.notDecoded.injEq] at h
    exact h ▸ decodeFrame_error he
  · split at h
    · cases h
    · split at h <;> cases h

theorem waitVerdict_error {b : Byte} {s : State} {e : Err} (h : waitVerdict b s = .notDecoded e) :
    e = .malformedEscape ∨ e = .truncatedPacket ∨ e = .crcMismatch := by
  unfold waitVerdict at h
  split at h
  · cases h
  · exact frameVerdict_error h

/-- A new `rxbuf` that RX_BUF_CAP holds if it holds the old one. -/
def KeepsCap (s : State) (buf : List Byte) : Prop :=
  ∀ cap, s.config.rxBufCap = some cap → s.rxbuf.length ≤ cap → buf.length ≤ cap

/-- FC.DECODE after an append that fits keeps to RX_BUF_CAP. -/
theorem KeepsCap.of_fits {s : State} {bytes : List Byte} (h : fits s bytes = true) :
    KeepsCap s (s.rxbuf ++ bytes) ∧ KeepsCap s (extractFrames (s.rxbuf ++ bytes)).2 := by
  have key : KeepsCap s (s.rxbuf ++ bytes) := by
    intro cap hcap _
    simpa [fits, hcap] using h
  exact ⟨key, fun cap hcap hl => (extractFrames_length _).trans (key cap hcap hl)⟩

theorem KeepsCap.refl (s : State) : KeepsCap s s.rxbuf := fun _ _ h => h

/-- One received byte changes `rxbuf`, within RX_BUF_CAP, and may end the wait, nothing else. -/
theorem waitByte_next {b : Byte} {s t : State} (h : waitByte b s = .next t) :
    ∃ buf, KeepsCap s buf ∧
      (t = s.withRxbuf buf ∨ t = (s.withRxbuf buf).withArq .acked ∨ t = (s.withRxbuf buf).withArq .retrying) := by
  unfold waitByte at h
  split at h
  · rename_i hfit
    exact ⟨_, (KeepsCap.of_fits hfit).2, applyVerdict_next (fun e he => waitVerdict_error he) h⟩
  · cases h

/-- What every received byte of a wait keeps, and what an unread rest put back into the channel keeps, several bytes keep. -/
theorem feedWait_keeps {P : State → Prop} (hbyte : ∀ b s t, P s → s.arqState = .awaitingAck → waitByte b s = .next t → P t)
    (hrest : ∀ s v, P s → P (s.withRxIn v)) {bytes : List Byte} {s t : State} (h : feedWait bytes s = .next t) (hs : P s) :
    P t := by
  induction bytes generalizing s with
  | nil => simpa [feedWait] using (by simpa [feedWait] using h : s = t) ▸ hs
  | cons b bs ih =>
    unfold feedWait at h
    split at h
    · rename_i harq
      split at h
      · rename_i s' hs'
        exact ih h (hbyte b s s' hs harq hs')
      · cases h
      · cases h
    · simp only [Host.Outcome.next.injEq] at h
      exact h ▸ hrest s _ hs

/-- Wire bytes outside a wait: `rxbuf` and the reply, or a refusal. -/
theorem receiveBytes_next_outside {bytes : List Byte} {r : List (List Byte) → Reply} {s t : State} (ha : s.arqState ≠ .awaitingAck)
    (h : receiveBytes bytes r s = .next t) :
    t = s.withReply (some .refused) ∨ ∃ buf rep, KeepsCap s buf ∧ t = (s.withRxbuf buf).withReply (some rep) := by
  unfold receiveBytes at h
  rw [if_neg ha] at h
  split at h
  · rename_i hfit
    simp only [answer, Host.Outcome.next.injEq] at h
    exact .inr ⟨_, _, (KeepsCap.of_fits hfit).2, h.symm⟩
  · simp only [refuse, answer, Host.Outcome.next.injEq] at h
    exact .inl h.symm

/-! ## Sending (42 R141) -/

/-- RT.SEND in `Failed` replies and touches nothing (42 R152). -/
theorem raiseStored_next {s t : State} (h : raiseStored s = .next t) : ∃ r, t = s.withReply (some r) := by
  obtain ⟨e, -, h⟩ := readReg_next h
  simp only [answer, Host.Outcome.next.injEq] at h
  exact ⟨_, h.symm⟩

/-- RT.SEND that answers a next state has accepted the packet, or has only replied. -/
theorem sendPacket_next {type : Nat} {payload : List Byte} {s t : State} (h : sendPacket type payload s = .next t) :
    (s.arqState = .idle ∧ sendDomain type payload = true ∧ ∃ q, s.seqCtr = some q ∧
      t = (((((s.withTxSeq (some q)).withSeqCtr (some (q + 1#3))).withTxFrame
        (some (buildFrame s.config (BitVec.ofNat 4 type) payload q))).withAttempts (some 0)).withArq .sending).withReply none) ∨
    (∃ r, t = s.withReply (some r)) := by
  have href : ∀ {u : State}, refuse s = .next u → ∃ r, u = s.withReply (some r) := by
    intro u hu
    simp only [refuse, answer, Host.Outcome.next.injEq] at hu
    exact ⟨_, hu.symm⟩
  unfold sendPacket at h
  split at h
  · rename_i harq
    split at h
    · rename_i hd
      obtain ⟨q, hq, h⟩ := readReg_next h
      simp only [Host.Outcome.next.injEq] at h
      exact .inl ⟨harq, hd, q, hq, h.symm⟩
    · exact .inr (href h)
  · exact .inr (raiseStored_next h)
  all_goals exact .inr (href h)

/-- A pseudo-operation that answers a next state ran in `Idle`, or has only replied. -/
theorem startTasks_next {f : State → Result} {s t : State} (h : startTasks f s = .next t) :
    (s.arqState = .idle ∧ f s = .next t) ∨ (∃ r, t = s.withReply (some r)) := by
  have href : ∀ {u : State}, refuse s = .next u → ∃ r, u = s.withReply (some r) := by
    intro u hu
    simp only [refuse, answer, Host.Outcome.next.injEq] at hu
    exact ⟨_, hu.symm⟩
  unfold startTasks at h
  split at h
  · rename_i harq
    exact .inl ⟨harq, h⟩
  · exact .inr (raiseStored_next h)
  all_goals exact .inr (href h)

/-- A header word is unpacked and replied; nothing else changes (41 R123). -/
theorem receiveHeader_eq (h : Header) (s : State) :
    receiveHeader h s = answer s (.header (hdrUnpack (headerByte0 h.seq h.ack h.dip h.rp) (headerByte1 h.type h.length)
      (headerByte2 h.length) h.hcs)) := rfl

/-! ## Pacing (43 R173) -/

/-- The page write time of a page of whole words is exact. -/
theorem pageWriteTime_whole {cfg : Config} (h : cfg.flashPageSize % 4 = 0) :
    pageWriteTime cfg = cfg.flashPageSize / 4 * cfg.perWordWriteTime := if_pos h

/-- The page write time of any page lies between the quotient rounded down and rounded up. -/
theorem pageWriteTime_bounds (cfg : Config) :
    cfg.flashPageSize / 4 * cfg.perWordWriteTime ≤ pageWriteTime cfg ∧
      pageWriteTime cfg ≤ (cfg.flashPageSize / 4 + 1) * cfg.perWordWriteTime := by
  have hrest := Nat.le_of_lt_succ (Free.pageWriteRest cfg.flashPageSize cfg.perWordWriteTime).isLt
  rw [Nat.succ_mul]
  unfold pageWriteTime
  split
  · exact ⟨Nat.le_refl _, Nat.le_add_right _ _⟩
  · exact ⟨Nat.le_add_right _ _, Nat.add_le_add_left hrest _⟩

end Sys2Proof.Machine
end

