-- ==== Sys2Proof/Laws/Exec.lean ====
section
/-! SUPPORT. What one instruction can do, said once: `exec_effect` sorts every next state of `exec` into the constructors of `Effect`,
each of which writes the next state out as updates of the state before. -/

namespace Sys2Proof.Machine

/-- The rows whose meaning is to receive wire bytes (30 R68, R60). -/
def isWire : Instr → Bool
  | .marker | .esc | .escMarker | .escEsc | .literal _ | .illegalEscape _ | .frame _ => true
  | _ => false

/-- The states in which a wait can be after bytes that this instruction receives (42 R143 to R146). -/
def waitEnds : Instr → List ArqState
  | .marker | .esc | .escMarker | .escEsc | .literal _ | .illegalEscape _ | .frame _ => [.awaitingAck, .acked, .retrying]
  | .tRxByte => [.awaitingAck]
  | .tFrameAck => [.acked]
  | .tFrameNak | .tFrameErr => [.retrying]
  | _ => []

/-- The instructions that may end as a reply alone. -/
def canReply : Instr → Bool
  | .tTransmit | .tRxByte | .tFrameAck | .tFrameNak | .tFrameErr => false
  | .tTimeout | .tRetry | .tExhaust | .tDone | .tChanErr => false
  | .chanWrite _ => false
  | _ => true

/-- The acceptance of a packet (42 R141). -/
def accepted (type : BitVec 4) (payload : List Byte) (q : Seq) (s : State) : State :=
  (((((s.withTxSeq (some q)).withSeqCtr (some (q + 1#3))).withTxFrame (some (buildFrame s.config type payload q))).withAttempts
    (some 0)).withArq .sending).withReply none

/-- Everything an instruction can do when it answers a next state. -/
inductive Effect (s : State) : Instr → State → Prop where
  | replied (i : Instr) (r : Reply) (hi : canReply i = true) : Effect s i (s.withReply (some r))
  | buffered (i : Instr) (buf : List Byte) (r : Reply)
      (hi : (isWire i = true ∧ s.arqState ≠ .awaitingAck) ∨ (∃ bs, i = .fcAppend bs) ∨ i = .fcDecode) (hb : KeepsCap s buf) :
      Effect s i ((s.withRxbuf buf).withReply (some r))
  | received (i : Instr) (buf : List Byte) (rx : List RxInput) (a : ArqState) (hs : s.arqState = .awaitingAck)
      (ha : a ∈ waitEnds i) (hb : KeepsCap s buf) : Effect s i (((s.withRxbuf buf).withRxIn rx).withArq a)
  | opened (t : Micros) (n : Nat) (answers : List OpenAnswer) (hs : s.arqState = .closed) (hd : openDomain t n = true) :
      Effect s (.rtOpen t n)
        ((resetSession t n (s.withChan { s.chan with isOpen := true, openAnswers := answers })).withReply (some .nothing))
  | openFailed (t : Micros) (n : Nat) (answers : List OpenAnswer) (hs : s.arqState = .closed) :
      Effect s (.rtOpen t n) ((s.withChan { s.chan with openAnswers := answers }).withReply (some (.raised .channelError)))
  | closed (hs : s.arqState = .idle ∨ s.arqState = .failed) :
      Effect s .rtClose ((dropSession (closeChannel s)).withReply (some .nothing))
  | closedAgain (hs : s.arqState = .closed) : Effect s .rtClose ((dropSession s).withReply (some .nothing))
  | sent (i : Instr) (type : Nat) (payload : List Byte) (q : Seq) (host : HostSide) (hs : s.arqState = .idle)
      (hd : sendDomain type payload = true) (hq : s.seqCtr = some q)
      (hi : i = .rtSend type payload ∧ host = s.host ∨ (∃ b, i = .sendInitPacket b ∧ host = s.host) ∨
        ∃ m sd bl app, i = .sendStartDfu m sd bl app) :
      Effect s i ((accepted (BitVec.ofNat 4 type) payload q s).withHost host)
  | queued (i : Instr) (host : HostSide) (n : Nat) (hs : s.arqState = .idle)
      (hi : (∃ image, i = .sendFirmware image) ∨ i = .sendValidateFirmware ∨ i = .sendActivateFirmware) :
      Effect s i (((s.withHost host).withFreeCount n).withReply none)
  | transmitted (n : Nat) (f : List Byte) (answers : List WriteAnswer) (hs : s.arqState = .sending) (hn : s.attempts = some n)
      (hf : s.txFrame = some f) :
      Effect s .tTransmit (((s.withAttempts (some (n + 1))).withChan
        { s.chan with tx := s.chan.tx ++ f, writeAnswers := answers }).withArq .awaitingAck)
  | writeFailed (n : Nat) (f sent : List Byte) (answers : List WriteAnswer) (hs : s.arqState = .sending) (hn : s.attempts = some n)
      (hf : s.txFrame = some f) (hp : sent <+: f) :
      Effect s .tTransmit (failWith .channelError .channelError ((s.withAttempts (some (n + 1))).withChan
        { s.chan with tx := s.chan.tx ++ sent, writeAnswers := answers }))
  | timedOut (rest : List RxInput) (hs : s.arqState = .awaitingAck) (hr : s.chan.rxIn = .timeout :: rest) :
      Effect s .tTimeout (enterError .timeout (s.withRxIn rest))
  | readFailed (rest : List RxInput) (hs : s.arqState = .awaitingAck) (hr : s.chan.rxIn = .error :: rest) :
      Effect s .tChanErr (failWith .channelError .channelError (s.withRxIn rest))
  | retried (n : Nat) (hs : s.arqState = .retrying ∨ s.arqState = .timedOut) (hn : s.attempts = some n) (h : n < maxAttempts) :
      Effect s .tRetry (s.withArq .sending)
  | exhausted (n : Nat) (hs : s.arqState = .retrying ∨ s.arqState = .timedOut) (hn : s.attempts = some n) (h : ¬ n < maxAttempts) :
      Effect s .tExhaust (failWith .retryExhausted .retryExhausted s)
  | done (hs : s.arqState = .acked) : Effect s .tDone ((s.withArq .idle).withReply (some .ok))
  | chanRead (rx : List RxInput) (r : Reply) : Effect s .chanRead ((s.withRxIn rx).withReply (some r))
  | chanWritten (bs sent : List Byte) (answers : List WriteAnswer) (r : Reply) (hp : sent <+: bs) :
      Effect s (.chanWrite bs) ((s.withChan { s.chan with tx := s.chan.tx ++ sent, writeAnswers := answers }).withReply (some r))

theorem answer_next {s t : State} {r : Reply} (h : answer s r = .next t) : t = s.withReply (some r) := by
  simp only [answer, Host.Outcome.next.injEq] at h
  exact h.symm

theorem refuse_next {s t : State} (h : refuse s = .next t) : t = s.withReply (some .refused) := answer_next h

theorem answerBytes_next {s t : State} {e : Except Err (List Byte)} (h : answerBytes s e = .next t) :
    ∃ r, t = s.withReply (some r) := by
  cases e <;> exact ⟨_, answer_next h⟩

theorem answerPacket_next {s t : State} {e : Except Err Packet} (h : answerPacket s e = .next t) :
    ∃ r, t = s.withReply (some r) := by
  cases e <;> exact ⟨_, answer_next h⟩

theorem noTransition_ne {t : State} : noTransition ≠ .next t := by simp [noTransition]

/-- Reading on in a wait: `rxbuf`, the unread rest and `arq_state` are all that changes. -/
theorem feedWait_effect {bytes : List Byte} {s t : State} (hs : s.arqState = .awaitingAck) (h : feedWait bytes s = .next t) :
    ∃ buf rx a, a ∈ [ArqState.awaitingAck, .acked, .retrying] ∧ KeepsCap s buf ∧
      t = ((s.withRxbuf buf).withRxIn rx).withArq a := by
  refine feedWait_keeps (P := fun u => ∃ buf rx a, a ∈ [ArqState.awaitingAck, .acked, .retrying] ∧ KeepsCap s buf ∧
    u = ((s.withRxbuf buf).withRxIn rx).withArq a) ?_ ?_ h ⟨s.rxbuf, s.chan.rxIn, .awaitingAck, by simp, KeepsCap.refl s, ?_⟩
  · rintro b u v ⟨buf, rx, a, ha, hb, rfl⟩ hu hv
    obtain ⟨buf', hb', h1⟩ := waitByte_next hv
    have hkeep : KeepsCap s buf' := fun cap hcap hl => hb' cap hcap (hb cap hcap hl)
    obtain h1 | h1 | h1 := h1
    · exact ⟨buf', rx, a, ha, hkeep, h1⟩
    · exact ⟨buf', rx, .acked, by simp, hkeep, h1⟩
    · exact ⟨buf', rx, .retrying, by simp, hkeep, h1⟩
  · rintro u v ⟨buf, rx, a, ha, hb, rfl⟩
    exact ⟨buf, v, a, ha, hb, rfl⟩
  · rw [← hs]; rfl

theorem receiveBytes_effect {i : Instr} {bytes : List Byte} {r : List (List Byte) → Reply} {s t : State} (hi : isWire i = true)
    (h : receiveBytes bytes r s = .next t) : Effect s i t := by
  have hc : canReply i = true := by cases i <;> simp_all [isWire, canReply]
  have hw : waitEnds i = [.awaitingAck, .acked, .retrying] := by cases i <;> simp_all [isWire, waitEnds]
  by_cases hs : s.arqState = .awaitingAck
  · rw [receiveBytes, if_pos hs] at h
    obtain ⟨buf, rx, a, ha, hb, rfl⟩ := feedWait_effect hs h
    exact .received i buf rx a hs (hw ▸ ha) hb
  · obtain rfl | ⟨buf, rep, hb, rfl⟩ := receiveBytes_next_outside hs h
    · exact .replied i _ hc
    · exact .buffered i buf rep (.inl ⟨hi, hs⟩) hb

/-- A transition on a received byte: the byte is taken, and the verdict is one the transition is for. -/
theorem onReceivedByte_next {wanted : Verdict → Bool} {s t : State} (h : onReceivedByte wanted s = .next t) :
    s.arqState = .awaitingAck ∧ ∃ b rest, s.chan.rxIn = .byte b :: rest ∧ wanted (waitVerdict b s) = true ∧
      waitByte b (s.withRxIn rest) = .next t := by
  unfold onReceivedByte at h
  split at h
  · rename_i hs
    split at h
    · rename_i b rest hr
      split at h
      · rename_i hv
        exact ⟨hs, b, rest, hr, hv, h⟩
      · exact absurd h noTransition_ne
    · exact absurd h noTransition_ne
  · exact absurd h noTransition_ne

/-- The state after a received byte with a given verdict. -/
theorem waitByte_verdict {b : Byte} {s t : State} (h : waitByte b s = .next t) :
    fits s [b] = true ∧ applyVerdict (waitVerdict b s) (appendAndDecode [b] s).2 = .next t := by
  unfold waitByte at h
  split at h
  · exact ⟨‹_›, h⟩
  · cases h

theorem onReceivedByte_effect {i : Instr} {wanted : Verdict → Bool} {a : ArqState} {s t : State}
    (h : onReceivedByte wanted s = .next t) (ha : a ∈ waitEnds i)
    (hw : ∀ (v : Verdict) (u w : State), wanted v = true → u.arqState = .awaitingAck →
      (∀ e, v = .notDecoded e → e = .malformedEscape ∨ e = .truncatedPacket ∨ e = .crcMismatch) →
      applyVerdict v u = .next w → w = u.withArq a) : Effect s i t := by
  obtain ⟨hs, b, rest, -, hv, hb⟩ := onReceivedByte_next h
  obtain ⟨hfit, hb⟩ := waitByte_verdict hb
  have := hw (waitVerdict b s) (appendAndDecode [b] (s.withRxIn rest)).2 t hv hs (fun e he => waitVerdict_error he) hb
  subst this
  exact .received i _ rest a hs ha (KeepsCap.of_fits (s := s) hfit).2

theorem withArq_self {s : State} {a : ArqState} (h : s.arqState = a) : s.withArq a = s := by
  subst h; rfl

theorem rtOpen_effect {a : Micros} {n : Nat} {s t : State} (h : execRtOpen a n s = .next t) : Effect s (.rtOpen a n) t := by
  unfold execRtOpen at h
  split at h
  · rename_i hc
    simp only [Bool.and_eq_true, decide_eq_true_eq] at hc
    obtain ⟨answers, hstate⟩ := openChannel_state s
    simp only at h
    split at h
    · rename_i hok
      rw [if_pos hok] at hstate
      rw [answer_next h, hstate]
      exact .opened a n answers hc.1 hc.2
    · rename_i hno
      rw [if_neg hno] at hstate
      rw [answer_next h, hstate]
      exact .openFailed a n answers hc.1
  · rw [refuse_next h]
    exact .replied _ _ rfl

theorem rtClose_effect {s t : State} (h : execRtClose s = .next t) : Effect s .rtClose t := by
  unfold execRtClose at h
  split at h <;> rename_i hs
  · rw [answer_next h]; exact .closed (.inl hs)
  · rw [answer_next h]; exact .closed (.inr hs)
  · rw [answer_next h]; exact .closedAgain hs
  all_goals rw [answer_next h]; exact .replied _ _ rfl

theorem tTransmit_effect {s t : State} (h : execTTransmit s = .next t) : Effect s .tTransmit t := by
  unfold execTTransmit at h
  split at h
  · rename_i hs
    obtain ⟨n, hn, h⟩ := readReg_next h
    obtain ⟨f, hf, h⟩ := readReg_next h
    obtain ⟨sent, answers, hw, hp, hall⟩ := writeChannel_state f (s.withAttempts (some (n + 1)))
    simp only at h
    split at h
    · rename_i hok
      simp only [Host.Outcome.next.injEq] at h
      rw [← h, hw, hall hok]
      exact .transmitted n f answers hs hn hf
    · simp only [Host.Outcome.next.injEq] at h
      rw [← h, hw]
      exact .writeFailed n f sent answers hs hn hf hp
  · exact absurd h noTransition_ne

theorem afterFailedAttempt_next {act : Nat → Result} {s t : State} (h : afterFailedAttempt act s = .next t) :
    (s.arqState = .retrying ∨ s.arqState = .timedOut) ∧ ∃ n, s.attempts = some n ∧ act n = .next t := by
  unfold afterFailedAttempt at h
  split at h
  · rename_i hs
    obtain ⟨n, hn, h⟩ := readReg_next h
    exact ⟨hs, n, hn, h⟩
  · exact absurd h noTransition_ne

theorem tRxByte_effect {s t : State} (h : execTRxByte s = .next t) : Effect s .tRxByte t := by
  unfold execTRxByte at h
  split at h
  · rename_i hs
    split at h
    · simp only [Host.Outcome.next.injEq] at h
      subst h
      have : Effect s .tRxByte (((s.withRxbuf s.rxbuf).withRxIn s.chan.rxIn).withArq .awaitingAck) :=
        .received _ _ _ _ hs (by simp [waitEnds]) (KeepsCap.refl s)
      rwa [show ((s.withRxbuf s.rxbuf).withRxIn s.chan.rxIn) = s from rfl, withArq_self hs] at this
    · rename_i rest _
      simp only [Host.Outcome.next.injEq] at h
      subst h
      have : Effect s .tRxByte (((s.withRxbuf s.rxbuf).withRxIn rest).withArq .awaitingAck) :=
        .received _ _ _ _ hs (by simp [waitEnds]) (KeepsCap.refl s)
      rwa [show ((s.withRxbuf s.rxbuf).withRxIn rest) = s.withRxIn rest from rfl, withArq_self (s := s.withRxIn rest) hs] at this
    · refine onReceivedByte_effect h (a := .awaitingAck) (by simp [waitEnds]) ?_
      intro v u w hv hu _ hw
      cases v <;> simp [Verdict.completesNone] at hv
      simp only [applyVerdict, Host.Outcome.next.injEq] at hw
      rw [withArq_self hu, hw]
    · exact absurd h noTransition_ne
    · exact absurd h noTransition_ne
  · exact absurd h noTransition_ne

/-- The START payload is in RT.SEND's range, whatever the free values are. -/
theorem sendDomain_start (m : UpdateMode) (sd bl app : Option Nat) :
    sendDomain typeStartCode (startPayload m sd bl app) = true := by
  have := (Free.startPayloadLength m sd bl app).isLt
  simp only [sendDomain, typeStartCode, startPayload, List.length_map, List.length_range, payloadMax, decide_eq_true_eq]
  omega

/-- RT.SEND in `Idle` with operands in range accepts the packet. -/
theorem sendPacket_idle {type : Nat} {payload : List Byte} {q : Seq} {s : State} (hs : s.arqState = .idle)
    (hq : s.seqCtr = some q) (hd : sendDomain type payload = true) :
    sendPacket type payload s = .next (accepted (BitVec.ofNat 4 type) payload q s) := by
  simp only [sendPacket, hs, hd, if_true, acceptPacket, hq, readReg_some, accepted]

theorem sendStartDfu_effect {m : UpdateMode} {sd bl app : Option Nat} {s t : State}
    (h : execSendStartDfu m sd bl app s = .next t) : Effect s (.sendStartDfu m sd bl app) t := by
  unfold execSendStartDfu at h
  obtain ⟨hs, h⟩ | ⟨r, rfl⟩ := startTasks_next h
  · cases hq : s.seqCtr with
    | none => simp [sendPacket, State.withHost, hs, sendDomain_start, acceptPacket, hq, readReg] at h
    | some q =>
      rw [sendPacket_idle (q := q) (by simpa using hs) (by simpa using hq) (sendDomain_start m sd bl app)] at h
      simp only [Host.Outcome.next.injEq] at h
      rw [← h]
      exact .sent _ typeStartCode _ q _ hs (sendDomain_start m sd bl app) hq (.inr (.inr ⟨m, sd, bl, app, rfl⟩))
  · exact .replied _ _ rfl

theorem queued_effect {i : Instr} {f : State → Result} {s t : State} (h : startTasks f s = .next t) (hc : canReply i = true)
    (hi : (∃ image, i = .sendFirmware image) ∨ i = .sendValidateFirmware ∨ i = .sendActivateFirmware)
    (hf : ∀ u, f s = .next u → ∃ host n, u = ((s.withHost host).withFreeCount n).withReply none) : Effect s i t := by
  obtain ⟨hs, h⟩ | ⟨r, rfl⟩ := startTasks_next h
  · obtain ⟨host, n, rfl⟩ := hf t h
    exact .queued i host n hs hi
  · exact .replied i r hc

/-- Everything `exec` can do when it answers a next state. -/
theorem exec_effect {i : Instr} {s t : State} (h : exec i s = .next t) : Effect s i t := by
  cases i with
  | marker => exact receiveBytes_effect rfl h
  | esc => exact receiveBytes_effect rfl h
  | escMarker => exact receiveBytes_effect rfl h
  | escEsc => exact receiveBytes_effect rfl h
  | literal b => exact receiveBytes_effect rfl h
  | illegalEscape x => exact receiveBytes_effect rfl h
  | frame raw =>
    unfold exec execFrame receiveFrame at h
    exact receiveBytes_effect rfl h
  | rawPacket u =>
    obtain ⟨r, rfl⟩ := answerPacket_next h
    exact .replied _ r rfl
  | typeInit seq ack dip rp length hcs => rw [answer_next h]; exact .replied _ _ rfl
  | typeStart seq ack dip rp length hcs => rw [answer_next h]; exact .replied _ _ rfl
  | typeData seq ack dip rp length hcs => rw [answer_next h]; exact .replied _ _ rfl
  | typeStopData seq ack dip rp length hcs => rw [answer_next h]; exact .replied _ _ rfl
  | typeReserved seq ack dip rp type length hcs => rw [answer_next h]; exact .replied _ _ rfl
  | fcAppend bytes =>
    simp only [exec, execFcAppend] at h
    split at h
    · rename_i hfit
      rw [answer_next h]; exact .buffered _ _ _ (.inr (.inl ⟨bytes, rfl⟩)) (KeepsCap.of_fits hfit).1
    · rw [refuse_next h]; exact .replied _ _ rfl
  | fcDecode =>
    rw [answer_next h]
    exact .buffered _ _ _ (.inr (.inr rfl)) fun cap _ hl => (extractFrames_length _).trans (by simpa using hl)
  | fcEncode bytes => rw [answer_next h]; exact .replied _ _ rfl
  | fcDecodeEscapes bytes =>
    obtain ⟨r, rfl⟩ := answerBytes_next h
    exact .replied _ r rfl
  | pkCrc16 bytes start => rw [answer_next h]; exact .replied _ _ rfl
  | pkHdrCsum b0 b1 b2 => rw [answer_next h]; exact .replied _ _ rfl
  | pkHdrPack seq ack dip rp type length =>
    simp only [exec, execPkHdrPack] at h
    split at h
    · rw [answer_next h]; exact .replied _ _ rfl
    · rw [refuse_next h]; exact .replied _ _ rfl
  | pkHdrUnpack h0 h1 h2 h3 => rw [answer_next h]; exact .replied _ _ rfl
  | pkBuild type payload seq =>
    simp only [exec, execPkBuild] at h
    split at h
    · rw [answer_next h]; exact .replied _ _ rfl
    · rw [refuse_next h]; exact .replied _ _ rfl
  | pkDecode f =>
    simp only [exec, execPkDecode] at h
    split at h
    · obtain ⟨r, rfl⟩ := answerPacket_next h
      exact .replied _ r rfl
    · rw [refuse_next h]; exact .replied _ _ rfl
  | pkAckAccepts a q =>
    simp only [exec, execPkAckAccepts] at h
    split at h
    · rw [answer_next h]; exact .replied _ _ rfl
    · rw [refuse_next h]; exact .replied _ _ rfl
  | rtOpen a n => exact rtOpen_effect h
  | rtSend type payload =>
    obtain ⟨hs, hd, q, hq, rfl⟩ | ⟨r, rfl⟩ := sendPacket_next h
    · exact .sent _ type payload q s.host hs hd hq (.inl ⟨rfl, rfl⟩)
    · exact .replied _ r rfl
  | rtClose => exact rtClose_effect h
  | tTransmit => exact tTransmit_effect h
  | tRxByte => exact tRxByte_effect h
  | tFrameAck =>
    unfold exec execTFrameAck at h
    refine onReceivedByte_effect h (a := .acked) (by simp [waitEnds]) ?_
    intro v u w hv _ _ hw
    cases v <;> simp at hv <;> simp [applyVerdict] at hw
    exact hw.symm
  | tFrameNak =>
    unfold exec execTFrameNak at h
    refine onReceivedByte_effect h (a := .retrying) (by simp [waitEnds]) ?_
    intro v u w hv _ _ hw
    cases v <;> simp at hv <;> simp [applyVerdict] at hw
    exact hw.symm
  | tFrameErr =>
    unfold exec execTFrameErr at h
    refine onReceivedByte_effect h (a := .retrying) (by simp [waitEnds]) ?_
    intro v u w hv _ he hw
    cases v with
    | notDecoded e =>
      simp only [applyVerdict, enterError_decode (he e rfl), Host.Outcome.next.injEq] at hw
      exact hw.symm
    | _ => simp [Verdict.isNotDecoded] at hv
  | tTimeout =>
    simp only [exec, execTTimeout] at h
    split at h
    · rename_i hs
      split at h
      · rename_i rest hr
        simp only [Host.Outcome.next.injEq] at h
        exact h ▸ .timedOut rest hs hr
      · exact absurd h noTransition_ne
    · exact absurd h noTransition_ne
  | tRetry =>
    obtain ⟨hs, n, hn, h⟩ := afterFailedAttempt_next h
    split at h
    · rename_i hlt
      simp only [Host.Outcome.next.injEq] at h
      exact h ▸ .retried n hs hn hlt
    · exact absurd h noTransition_ne
  | tExhaust =>
    obtain ⟨hs, n, hn, h⟩ := afterFailedAttempt_next h
    split at h
    · exact absurd h noTransition_ne
    · rename_i hge
      simp only [Host.Outcome.next.injEq] at h
      exact h ▸ .exhausted n hs hn hge
  | tDone =>
    simp only [exec, execTDone] at h
    split at h
    · rename_i hs
      simp only [Host.Outcome.next.injEq] at h
      exact h ▸ .done hs
    · exact absurd h noTransition_ne
  | tChanErr =>
    simp only [exec, execTChanErr] at h
    split at h
    · rename_i hs
      split at h
      · rename_i rest hr
        simp only [Host.Outcome.next.injEq] at h
        exact h ▸ .readFailed rest hs hr
      · exact absurd h noTransition_ne
    · exact absurd h noTransition_ne
  | sendInitPacket bytes =>
    obtain ⟨hs, hd, q, hq, rfl⟩ | ⟨r, rfl⟩ := sendPacket_next h
    · exact .sent _ typeInitCode _ q s.host hs hd hq (.inr (.inl ⟨bytes, rfl, rfl⟩))
    · exact .replied _ r rfl
  | sendStartDfu m sd bl app => exact sendStartDfu_effect h
  | sendFirmware image =>
    unfold exec execSendFirmware at h
    refine queued_effect h rfl (.inl ⟨image, rfl⟩) ?_
    intro u hu
    obtain ⟨cfg, -, hu⟩ := readReg_next hu
    simp only [Host.Outcome.next.injEq] at hu
    exact ⟨{ s.host with tasks := firmwareTasks s.config cfg.pktMaxSize image ++ s.host.tasks,
                           total := Free.totalAfterFirmware s.host.total image.length }, s.freeCount, hu.symm⟩
  | sendValidateFirmware =>
    unfold exec execSendValidateFirmware at h
    refine queued_effect h rfl (.inr (.inl rfl)) ?_
    intro u hu
    simp only [Host.Outcome.next.injEq] at hu
    exact ⟨_, _, hu.symm⟩
  | sendActivateFirmware =>
    unfold exec execSendActivateFirmware at h
    refine queued_effect h rfl (.inr (.inr rfl)) ?_
    intro u hu
    simp only [Host.Outcome.next.injEq] at hu
    exact ⟨_, _, hu.symm⟩
  | chanRead =>
    simp only [exec, execChanRead] at h
    have key : ∃ rx, (readChannel s).2 = s.withRxIn rx := by
      obtain h1 | h1 := readChannel_state s
      · exact ⟨s.chan.rxIn, h1⟩
      · exact ⟨_, h1⟩
    obtain ⟨rx, hrx⟩ := key
    rw [hrx] at h
    split at h <;> (rw [answer_next h]; exact .chanRead rx _)
  | chanWrite bytes =>
    simp only [exec, execChanWrite] at h
    obtain ⟨sent, answers, hw, hp, -⟩ := writeChannel_state bytes s
    rw [hw] at h
    split at h <;> (rw [answer_next h]; exact .chanWritten bytes sent answers _ hp)

/-! ## The step -/

/-- An instruction is run from the state at hand, the host's side apart. -/
theorem select_run {s s' : State} {i : Instr} (h : select s = .run i s') : ∃ host, s' = s.withHost host := by
  have turn : hostTurn s = .run i s' → ∃ host, s' = s.withHost host := by
    intro h
    unfold hostTurn at h
    split at h
    · split at h
      · unfold runTask at h
        split at h
        · cases h; exact ⟨_, rfl⟩
        · cases h
        · cases h
      · cases h
    · split at h
      · cases h
      · split at h
        · cases h; exact ⟨_, rfl⟩
        · cases h
  unfold select at h
  split at h
  · cases h; exact ⟨s.host, rfl⟩
  · cases h; exact ⟨s.host, rfl⟩
  · cases h; exact ⟨s.host, rfl⟩
  · cases h; exact ⟨s.host, rfl⟩
  · cases h; exact ⟨s.host, rfl⟩
  all_goals exact turn h

/-- What the host does by itself in a step: its own side changes, and it may raise one event or be refused. -/
inductive Stay (s : State) : State → Prop where
  | own (host : HostSide) : Stay s (s.withHost host)
  | event (ev : String → Event) (host : HostSide) : Stay s (emitWithMessage ev (s.withHost host))
  | refused (host : HostSide) : Stay s ((s.withHost host).withReply (some .refused))

/-- A step that runs no instruction. -/
theorem select_stay {s s' : State} (h : select s = .stay s') : Stay s s' := by
  have turn : hostTurn s = .stay s' → Stay s s' := by
    intro h
    unfold hostTurn at h
    split at h
    · split at h
      · unfold runTask at h
        split at h
        · cases h
        · cases h; exact .own _
        · cases h; exact .event _ _
      · cases h; exact .own _
    · split at h
      · cases h; exact .own s.host
      · split at h
        · cases h
        · cases h; exact .refused _
  unfold select at h
  split at h
  · cases h
  · cases h
  · cases h
  · cases h
  · cases h
  all_goals exact turn h

/-- Everything a step can do when it answers a next state: the effect of one instruction, or the host's own doing. -/
theorem step_cases {s t : State} (h : step s = .next t) :
    (∃ i host, exec i (s.withHost host) = .next t ∧ Effect (s.withHost host) i t) ∨ Stay s t := by
  unfold step at h
  split at h
  · rename_i i s' hs
    obtain ⟨host, rfl⟩ := select_run hs
    exact .inl ⟨i, host, h, exec_effect h⟩
  · rename_i s' hs
    cases h
    exact .inr (select_stay hs)

end Sys2Proof.Machine
end

