-- ==== Sys2Proof/Laws/Header.lean ====
section
/-! SUPPORT. The header bytes and the CRC in numbers: the small lemmas about the bit layout (30 R63 to R65) and about the CRC's loop
(41 R120). -/

namespace Sys2Proof.Machine

/-- The fields of header byte 0, and its value. -/
theorem headerByte0_fields (seq ack : Seq) (dip rp : Bool) :
    (headerByte0 seq ack dip rp).extractLsb' 0 3 = seq ∧ (headerByte0 seq ack dip rp).extractLsb' 3 3 = ack ∧
      (headerByte0 seq ack dip rp).getLsbD 6 = dip ∧ (headerByte0 seq ack dip rp).getLsbD 7 = rp ∧
      (headerByte0 seq ack dip rp).toNat = seq.toNat + 8 * ack.toNat + 64 * dip.toNat + 128 * rp.toNat := by
  revert seq ack dip rp
  decide +kernel

/-- Header byte 0 from its own fields. -/
theorem headerByte0_of_fields (b : Byte) :
    headerByte0 (b.extractLsb' 0 3) (b.extractLsb' 3 3) (b.getLsbD 6) (b.getLsbD 7) = b := by
  revert b
  decide +kernel

theorem headerByte1_toNat (type : BitVec 4) (length : BitVec 12) :
    (headerByte1 type length).toNat = type.toNat + 16 * (length.toNat % 16) := by
  have low : (length.extractLsb' 0 4).toNat = length.toNat % 16 := by simp [BitVec.extractLsb'_toNat]
  simp only [headerByte1, BitVec.toNat_cast, BitVec.toNat_append, low]
  rw [Nat.shiftLeft_eq, Nat.mul_comm, ← Nat.two_pow_add_eq_or_of_lt (i := 4) type.isLt]
  omega

theorem headerByte2_toNat (length : BitVec 12) : (headerByte2 length).toNat = length.toNat / 16 := by
  have := length.isLt
  simp only [headerByte2, BitVec.extractLsb'_toNat, Nat.shiftRight_eq_div_pow]
  omega

/-- The length field joined from its two parts. -/
theorem lengthField_toNat (h1 h2 : Byte) :
    ((h2 ++ h1.extractLsb' 4 4).cast (by decide) : BitVec 12).toNat = 16 * h2.toNat + h1.toNat / 16 := by
  have := h1.isLt
  have high : (h1.extractLsb' 4 4).toNat = h1.toNat / 16 := by
    simp only [BitVec.extractLsb'_toNat, Nat.shiftRight_eq_div_pow]
    omega
  simp only [BitVec.toNat_cast, BitVec.toNat_append, high]
  rw [Nat.shiftLeft_eq, Nat.mul_comm, ← Nat.two_pow_add_eq_or_of_lt (i := 4) (by omega)]

/-! ## The CRC -/

/-- The loop carries only `crc` from byte to byte (R120). -/
theorem crc16_append (poly : Hword) (a b : List Byte) (crc : Hword) :
    crc16 poly (a ++ b) crc = crc16 poly b (crc16 poly a crc) := by
  induction a generalizing crc with
  | nil => rfl
  | cons x xs ih => simp [crc16, ih]

/-- One shift is linear. -/
theorem crcShift_xor (poly a b : Hword) : crcShift poly (a ^^^ b) = crcShift poly a ^^^ crcShift poly b := by
  unfold crcShift
  rw [BitVec.getLsbD_xor, BitVec.shiftLeft_xor_distrib]
  cases a.getLsbD 15 <;> cases b.getLsbD 15 <;> simp
  · rw [BitVec.xor_assoc]
  · rw [BitVec.xor_assoc, BitVec.xor_assoc, BitVec.xor_comm (b <<< 1)]
  · rw [BitVec.xor_assoc, ← BitVec.xor_assoc poly, BitVec.xor_comm poly, BitVec.xor_assoc]
    simp

theorem crcShifts_xor (poly : Hword) (n : Nat) (a b : Hword) :
    crcShifts poly n (a ^^^ b) = crcShifts poly n a ^^^ crcShifts poly n b := by
  induction n generalizing a b with
  | zero => rfl
  | succ n ih => simp only [crcShifts, crcShift_xor, ih]

end Sys2Proof.Machine
end

