-- ==== Sys2Proof/Laws/PerInstr.lean ====
section
/-! SUPPORT. Families of statements about every instruction as syntax, one lemma per constructor of `Instr`. -/

namespace Sys2Proof.Laws

/-- The number of bytes a word of a format has (30 R60, R61, R62, R75). -/
def WordLength.inRange : Format → Nat → Prop
  | .wireByte, n => n = 1
  | .wireBytePair, n => n = 2
  | .headerWord, n => n = 4
  | .wireFrame, n => 8 ≤ n ∧ n ≤ 1038
  | .rawPacket, n => 6 ≤ n ∧ n ≤ 518

/-- WordLength: the word of a well-formed instruction, where it has one, has its format's length. -/
def WordLength.Statement (i : Instr) : Prop :=
  i.wf = true → ∀ format bytes, encode i = some (format, bytes) → WordLength.inRange format bytes.length

/-- An instruction without a word (30 R71, D19). -/
theorem WordLength.of_none {i : Instr} (h : encode i = none) : WordLength.Statement i := by
  intro _ format bytes he
  rw [h] at he
  cases he

/-- An instruction whose word is known. -/
theorem WordLength.of_some {i : Instr} {format : Format} {bytes : List Byte} (h : encode i = some (format, bytes))
    (hr : WordLength.inRange format bytes.length) : WordLength.Statement i := by
  intro _ format' bytes' he
  rw [h] at he
  cases he
  exact hr

theorem WordLength.consByte_ok {b : Byte} {r : Except Err (List Byte)} {out : List Byte} (h : Machine.consByte b r = .ok out) :
    ∃ rest, r = .ok rest ∧ out = b :: rest := by
  cases r with
  | error e => cases h
  | ok rest => exact ⟨rest, rfl, (Except.ok.inj h).symm⟩

/-- A content that unescapes is at least as long as what it stands for, and at most twice as long (40 R102, R103). -/
theorem WordLength.unescaped_length {pending : Bool} {content out : List Byte} (h : Machine.unescape pending content = .ok out) :
    out.length ≤ content.length ∧ content.length + pending.toNat ≤ 2 * out.length := by
  induction content generalizing pending out with
  | nil => cases pending <;> simp_all [Machine.unescape]
  | cons b bs ih =>
    cases pending with
    | false =>
      simp only [Machine.unescape] at h
      split at h
      · have := ih h
        simp only [Bool.toNat_true, Bool.toNat_false, List.length_cons] at this ⊢
        omega
      · obtain ⟨rest, hr, rfl⟩ := WordLength.consByte_ok h
        have := ih hr
        simp only [Bool.toNat_false, List.length_cons] at this ⊢
        omega
    | true =>
      have key : ∀ c, Machine.consByte c (Machine.unescape false bs) = .ok out →
          out.length ≤ (b :: bs).length ∧ (b :: bs).length + true.toNat ≤ 2 * out.length := by
        intro c hc
        obtain ⟨rest, hr, rfl⟩ := WordLength.consByte_ok hc
        have := ih hr
        simp only [Bool.toNat_true, Bool.toNat_false, List.length_cons] at this ⊢
        omega
      simp only [Machine.unescape] at h
      split at h
      · exact key _ h
      · split at h
        · exact key _ h
        · cases h

theorem WordLength.marker : WordLength.Statement .marker :=
  WordLength.of_some rfl rfl

theorem WordLength.esc : WordLength.Statement .esc :=
  WordLength.of_some rfl rfl

theorem WordLength.escMarker : WordLength.Statement .escMarker :=
  WordLength.of_some rfl rfl

theorem WordLength.escEsc : WordLength.Statement .escEsc :=
  WordLength.of_some rfl rfl

theorem WordLength.literal (b : Byte) : WordLength.Statement (.literal b) :=
  WordLength.of_some rfl rfl

theorem WordLength.illegalEscape (x : Byte) : WordLength.Statement (.illegalEscape x) :=
  WordLength.of_some rfl rfl

theorem WordLength.frame (content : List Byte) : WordLength.Statement (.frame content) := by
  intro hw format bytes he
  simp only [encode, Option.some.injEq, Prod.mk.injEq] at he
  obtain ⟨rfl, rfl⟩ := he
  simp only [Instr.wf, frameContentWf, Bool.and_eq_true] at hw
  obtain ⟨-, hw⟩ := hw
  split at hw
  · rename_i u hu
    have := WordLength.unescaped_length (pending := false) hu
    simp only [rawPacketWf, decide_eq_true_eq] at hw
    simp only [minPkt, hdrLen, crcLen, payloadMax] at hw
    simp only [WordLength.inRange, Machine.delimit, List.length_append, List.length_cons, List.length_nil, Bool.toNat_false] at this ⊢
    omega
  · cases hw

theorem WordLength.rawPacket (u : List Byte) : WordLength.Statement (.rawPacket u) := by
  intro hw format bytes he
  simp only [encode, Option.some.injEq, Prod.mk.injEq] at he
  obtain ⟨rfl, rfl⟩ := he
  simp only [Instr.wf, rawPacketWf, decide_eq_true_eq] at hw
  simp only [minPkt, hdrLen, crcLen, payloadMax] at hw
  simp only [WordLength.inRange]
  omega

theorem WordLength.typeInit (seq ack : Seq) (dip rp : Bool) (length : BitVec 12) (hcs : Byte) :
    WordLength.Statement (.typeInit seq ack dip rp length hcs) :=
  WordLength.of_some rfl rfl

theorem WordLength.typeStart (seq ack : Seq) (dip rp : Bool) (length : BitVec 12) (hcs : Byte) :
    WordLength.Statement (.typeStart seq ack dip rp length hcs) :=
  WordLength.of_some rfl rfl

theorem WordLength.typeData (seq ack : Seq) (dip rp : Bool) (length : BitVec 12) (hcs : Byte) :
    WordLength.Statement (.typeData seq ack dip rp length hcs) :=
  WordLength.of_some rfl rfl

theorem WordLength.typeStopData (seq ack : Seq) (dip rp : Bool) (length : BitVec 12) (hcs : Byte) :
    WordLength.Statement (.typeStopData seq ack dip rp length hcs) :=
  WordLength.of_some rfl rfl

theorem WordLength.typeReserved (seq ack : Seq) (dip rp : Bool) (type : BitVec 4) (length : BitVec 12) (hcs : Byte) :
    WordLength.Statement (.typeReserved seq ack dip rp type length hcs) :=
  WordLength.of_some rfl rfl

theorem WordLength.fcAppend (bytes : List Byte) : WordLength.Statement (.fcAppend bytes) := WordLength.of_none rfl

theorem WordLength.fcDecode : WordLength.Statement .fcDecode := WordLength.of_none rfl

theorem WordLength.fcEncode (bytes : List Byte) : WordLength.Statement (.fcEncode bytes) := WordLength.of_none rfl

theorem WordLength.fcDecodeEscapes (bytes : List Byte) : WordLength.Statement (.fcDecodeEscapes bytes) := WordLength.of_none rfl

theorem WordLength.pkCrc16 (bytes : List Byte) (start : Option Hword) :
    WordLength.Statement (.pkCrc16 bytes start) := WordLength.of_none rfl

theorem WordLength.pkHdrCsum (b0 b1 b2 : Byte) : WordLength.Statement (.pkHdrCsum b0 b1 b2) := WordLength.of_none rfl

theorem WordLength.pkHdrPack (seq ack dip rp type length : Nat) :
    WordLength.Statement (.pkHdrPack seq ack dip rp type length) := WordLength.of_none rfl

theorem WordLength.pkHdrUnpack (h0 h1 h2 h3 : Byte) : WordLength.Statement (.pkHdrUnpack h0 h1 h2 h3) := WordLength.of_none rfl

theorem WordLength.pkBuild (type : Nat) (payload : List Byte) (seq : Nat) :
    WordLength.Statement (.pkBuild type payload seq) := WordLength.of_none rfl

theorem WordLength.pkDecode (f : List Byte) : WordLength.Statement (.pkDecode f) := WordLength.of_none rfl

theorem WordLength.pkAckAccepts (a s : Nat) : WordLength.Statement (.pkAckAccepts a s) := WordLength.of_none rfl

theorem WordLength.rtOpen (ackTimeout : Micros) (pktMaxSize : Nat) :
    WordLength.Statement (.rtOpen ackTimeout pktMaxSize) := WordLength.of_none rfl

theorem WordLength.rtSend (type : Nat) (payload : List Byte) : WordLength.Statement (.rtSend type payload) := WordLength.of_none rfl

theorem WordLength.rtClose : WordLength.Statement .rtClose := WordLength.of_none rfl

theorem WordLength.tTransmit : WordLength.Statement .tTransmit := WordLength.of_none rfl

theorem WordLength.tRxByte : WordLength.Statement .tRxByte := WordLength.of_none rfl

theorem WordLength.tFrameAck : WordLength.Statement .tFrameAck := WordLength.of_none rfl

theorem WordLength.tFrameNak : WordLength.Statement .tFrameNak := WordLength.of_none rfl

theorem WordLength.tFrameErr : WordLength.Statement .tFrameErr := WordLength.of_none rfl

theorem WordLength.tTimeout : WordLength.Statement .tTimeout := WordLength.of_none rfl

theorem WordLength.tRetry : WordLength.Statement .tRetry := WordLength.of_none rfl

theorem WordLength.tExhaust : WordLength.Statement .tExhaust := WordLength.of_none rfl

theorem WordLength.tDone : WordLength.Statement .tDone := WordLength.of_none rfl

theorem WordLength.tChanErr : WordLength.Statement .tChanErr := WordLength.of_none rfl

theorem WordLength.sendInitPacket (bytes : List Byte) : WordLength.Statement (.sendInitPacket bytes) := WordLength.of_none rfl

theorem WordLength.sendStartDfu (mode : UpdateMode) (softdevice bootloader app : Option Nat) :
    WordLength.Statement (.sendStartDfu mode softdevice bootloader app) := WordLength.of_none rfl

theorem WordLength.sendFirmware (image : List Byte) : WordLength.Statement (.sendFirmware image) := WordLength.of_none rfl

theorem WordLength.sendValidateFirmware : WordLength.Statement .sendValidateFirmware := WordLength.of_none rfl

theorem WordLength.sendActivateFirmware : WordLength.Statement .sendActivateFirmware := WordLength.of_none rfl

theorem WordLength.chanRead : WordLength.Statement .chanRead := WordLength.of_none rfl

theorem WordLength.chanWrite (bytes : List Byte) : WordLength.Statement (.chanWrite bytes) := WordLength.of_none rfl

end Sys2Proof.Laws
end

