-- ==== Sys2Proof/Tests/Slice0.lean ====
section
/-! SUPPORT. Own tests. Expected values come from spec/95_test_vectors.md (95), from the worked examples of the rules, or by hand from
the rule named. -/

namespace Sys2Proof.Tests

-- One theorem after the other: each waiting thread holds a stack of its own.
set_option Elab.async false

open Sys2Proof.Machine Sys2Proof.Spec

/-! ## Helpers -/

/-- Bytes from numbers. -/
def bs (l : List Nat) : List Byte := l.map (BitVec.ofNat 8)

/-- R4's defaults, with numbers in place of the OPEN host parameters. -/
def cfg : Config := { Config.default with flashPageSize := 4096, perPageEraseTime := 89700, perWordWriteTime := 100 }

/-- Power-on with these parameters. -/
def powerOn : State := { State.reset with config := cfg }

/-- A session just opened. -/
def idle : State := { powerOn with
  arqState := .idle, seqCtr := some 0#3, attempts := some 0, failReason := some .noReason, session := some ⟨1000000, 512⟩,
  chan := { powerOn.chan with isOpen := true } }

/-- `PK.BUILD(1, [], 0)` (95, 3.4). -/
def initFrame : List Byte := bs [0xC0, 0xC8, 0x01, 0x00, 0xC9, 0xF2, 0xCD, 0xC0]

/-- Inside an RT.SEND of that packet. -/
def inSend (a : ArqState) (n : Nat) (rx : List RxInput) : State := { idle with
  arqState := a, attempts := some n, txSeq := some 0#3, seqCtr := some 1#3, txFrame := some initFrame,
  chan := { idle.chan with rxIn := rx } }

/-- A failed session. -/
def failedWith (r : FailReason) : State := { inSend .failed 4 [] with failReason := some r }

/-- The content of `ACKF(a)` (95, section 5). -/
def ackContent (a : Nat) : List Byte :=
  if a = 1 then bs [0x48, 0x00, 0x00, 0x48, 0x53, 0xA6] else bs [0x40, 0x00, 0x00, 0x40, 0x98, 0xA2]

/-- A field of a next state. -/
def got {α : Type} (f : State → α) (r : Result) : Option α :=
  match r with
  | .next s => some (f s)
  | _ => none

/-- The reply of an instruction. -/
def replyOf (i : Instr) (s : State) : Option Reply := (got State.reply (exec i s)).join

/-! ## WellFormed: a term that each check refuses -/

theorem test_wf_literal : (Instr.literal 0xC0#8).wf = false ∧ (Instr.literal 0xDB#8).wf = false := by decide
theorem test_wf_illegalEscape : (Instr.illegalEscape 0xDC#8).wf = false ∧ (Instr.illegalEscape 0xDD#8).wf = false := by decide
theorem test_wf_frame : (Instr.frame (bs [0xD1, 0x34, 0x00, 0x06, 0x01])).wf = false ∧ (Instr.frame (bs [0x01, 0xDB])).wf = false ∧
    (Instr.frame (bs [0xC8, 0x01, 0x00, 0xC0, 0xF2, 0xCD])).wf = false := by decide +kernel
theorem test_wf_rawPacket : (Instr.rawPacket (bs [0xD1, 0x34, 0x00, 0x06, 0x01, 0x02])).wf = false := by decide
theorem test_wf_typeReserved : (Instr.typeReserved 0#3 0#3 false false 4#4 0#12 0#8).wf = false := by decide
theorem test_wf_hdrPack : (Instr.pkHdrPack 8 0 0 0 0 0).wf = false ∧ (Instr.pkHdrPack 0 0 0 0 0 4096).wf = false := by decide
theorem test_wf_build : (Instr.pkBuild 16 [] 0).wf = false ∧ (Instr.pkBuild 1 [] 8).wf = false := by decide
theorem test_wf_decode : (Instr.pkDecode (bs [0xD1, 0x34])).wf = false ∧ (Instr.pkDecode (bs [0xC0])).wf = false := by decide
theorem test_wf_ackAccepts : (Instr.pkAckAccepts 8 0).wf = false ∧ (Instr.pkAckAccepts 0 8).wf = false := by decide
theorem test_wf_open : (Instr.rtOpen 0 512).wf = false ∧ (Instr.rtOpen 1 0).wf = false ∧ (Instr.rtOpen 1 513).wf = false := by decide
theorem test_wf_send : (Instr.rtSend 16 []).wf = false ∧ (Instr.rtSend 4 (List.replicate 513 0#8)).wf = false := by decide +kernel
theorem test_wf_sendInit : (Instr.sendInitPacket (List.replicate 511 0#8)).wf = false := by decide +kernel

/-! ## Decoding: words written out from the encodings of 30_encoding and of the table -/

/-- 30 R68: C0, DB, and a literal. -/
theorem test_decode_bytes : decodeTableWord 8 0b11000000 = some .marker ∧ decodeTableWord 8 0b11011011 = some .esc ∧
    decodeTableWord 8 0b11011100 = some (.literal 0xDC#8) := by decide

/-- 30 R61, R70: the first byte in bits 15:8. -/
theorem test_decode_pairs : decodeTableWord 16 0b1101101111011100 = some .escMarker ∧
    decodeTableWord 16 0b1101101111011101 = some .escEsc ∧
    decodeTableWord 16 0b1101101100000000 = some (.illegalEscape 0x00#8) := by decide

/-- 30 R75, field by field: checksum, length, type, rp, dip, ack, seq. INIT, `0, 1, 1, 1, 1, 0` (95, 3.3). -/
theorem test_decode_typeInit :
    decodeTableWord 32 0b11001001_000000000000_0001_1_1_001_000 = some (.typeInit 0#3 1#3 true true 0#12 0xC9#8) := by decide
/-- `2, 3, 1, 1, 3, 16` (95, 3.3). -/
theorem test_decode_typeStart :
    decodeTableWord 32 0b11011110_000000010000_0011_1_1_011_010 = some (.typeStart 2#3 3#3 true true 16#12 0xDE#8) := by decide
/-- `5, 6, 1, 1, 4, 511` (95, 3.3). -/
theorem test_decode_typeData :
    decodeTableWord 32 0b00001010_000111111111_0100_1_1_110_101 = some (.typeData 5#3 6#3 true true 511#12 0x0A#8) := by decide
/-- `7, 0, 1, 1, 5, 0` (95, 3.3). -/
theorem test_decode_typeStopData :
    decodeTableWord 32 0b11001100_000000000000_0101_1_1_000_111 = some (.typeStopData 7#3 0#3 true true 0#12 0xCC#8) := by decide
/-- `0, 1, 1, 0, 0, 0` (95, 3.3). -/
theorem test_decode_typeReserved :
    decodeTableWord 32 0x48000048 = some (.typeReserved 0#3 1#3 true false 0#4 0#12 0x48#8) := by decide

/-- 30 R60: the frame of `PK.BUILD(4, [C0 DB 01], 1)` (95, 3.4). -/
theorem test_decode_frame :
    decode .wireFrame (bs [0xC0, 0xD1, 0x34, 0x00, 0x06, 0xDB, 0xDC, 0xDB, 0xDD, 0x01, 0x7E, 0xF9, 0xC0]) =
      .ok (.frame (bs [0xD1, 0x34, 0x00, 0x06, 0xDB, 0xDC, 0xDB, 0xDD, 0x01, 0x7E, 0xF9])) := by decide +kernel
/-- 30 R62. -/
theorem test_decode_rawPacket : decode .rawPacket (bs [0xC8, 0x01, 0x00, 0xC9, 0xF2, 0xCD]) =
    .ok (.rawPacket (bs [0xC8, 0x01, 0x00, 0xC9, 0xF2, 0xCD])) := by decide +kernel

/-- Bytes that are no word of their format. -/
theorem test_decode_rejects : decode .wireBytePair (bs [0x01, 0xDC]) = .error .notEscapePair ∧
    decode .wireByte [] = .error .wrongLength ∧ decode .wireFrame (bs [0xC0, 0x01, 0xC0, 0x02, 0xC0]) = .error .innerMarker ∧
    decode .wireFrame (bs [0xC0]) = .error .notDelimited := by decide +kernel

/-! ## One step -/

/-- A word put at the fetch is the next instruction, from reset on. -/
theorem test_step_runs_word : got State.rxbuf (step (State.reset.withFetchWord 8 0xC0)) = some (bs [0xC0]) := by decide +kernel

/-- 70 R230: at power-on nothing happens by itself. -/
theorem test_step_reset_stays : step State.reset = .next State.reset := rfl

/-! ## Received bytes and wire forms -/

/-- 95, 2.3: `C0 01` and `C0`. -/
theorem test_marker : replyOf .marker { idle with rxbuf := bs [0xC0, 0x01] } =
    some (.received .marker (.ok []) [bs [0xC0, 0x01, 0xC0]]) := by decide +kernel
theorem test_esc : replyOf .esc { idle with rxbuf := bs [0xC0] } = some (.received .esc (.ok []) []) := by decide +kernel
/-- 30 R68: DC after an unpaired DB makes a pair, DC after a pair is a literal. -/
theorem test_literal : replyOf (.literal 0xDC#8) { idle with rxbuf := bs [0xC0, 0xDB] } =
      some (.received .escMarker (.ok [0xC0#8]) []) ∧
    replyOf (.literal 0xDC#8) { idle with rxbuf := bs [0xC0, 0xDB, 0xDC] } =
      some (.received (.literal 0xDC#8) (.ok [0xDC#8]) []) := by decide +kernel
theorem test_escMarker : replyOf .escMarker { idle with rxbuf := bs [0xC0] } =
    some (.received .escMarker (.ok [0xC0#8]) []) := by decide +kernel
theorem test_escEsc : replyOf .escEsc { idle with rxbuf := bs [0xC0] } =
    some (.received .escEsc (.ok [0xDB#8]) []) := by decide +kernel
/-- 95, 2.3: `C0 DB C0`. -/
theorem test_illegalEscape : replyOf (.illegalEscape 0xC0#8) { idle with rxbuf := bs [0xC0] } =
    some (.received .illegal (.error .malformedEscape) [bs [0xC0, 0xDB, 0xC0]]) := by decide +kernel
/-- 95, 3.5, and section 6: outside a wait the packet, inside one the acknowledgment. -/
theorem test_frame : replyOf (.frame (ackContent 1)) idle =
    some (.decoded [.ok ⟨⟨0#3, 1#3, true, false, 0#4, 0#12, 0x48#8⟩, [], 0xA653#16⟩]) := by decide +kernel
theorem test_frame_in_wait : got State.arqState (exec (.frame (ackContent 1)) (inSend .awaitingAck 1 [])) = some .acked := by
  decide +kernel
/-- 30 R70: the empty frame `C0 C0`, put at the fetch as a word, is received and is a TruncatedPacket. -/
theorem test_empty_frame_word : (got State.reply (step { idle with host := { idle.host with program := [.word .wireFrame (bs [0xC0, 0xC0])] } })).join =
    some (.decoded [.error .truncatedPacket]) := by decide +kernel
/-- 93 U5, 92 D24: bytes that are no word of their format are refused, and the program goes on. -/
theorem test_undecodable_word :
    got (fun s => (s.reply, s.host.program)) (step { idle with host := { idle.host with program := [.word .wireFrame (bs [0x01]), .op .rtClose] } }) =
      some (some .refused, [.op .rtClose]) := by decide +kernel
/-- 95, 3.5: `dip` 0, the CRC bytes are not checked. -/
theorem test_rawPacket : replyOf (.rawPacket (bs [0x91, 0x14, 0x00, 0xA5, 0x77, 0xDE, 0xAD])) idle =
    some (.packet ⟨⟨1#3, 2#3, false, true, 4#4, 1#12, 0xA5#8⟩, [0x77#8], 0xADDE#16⟩) := by decide +kernel
theorem test_typeInit : replyOf (.typeInit 0#3 1#3 true true 0#12 0xC9#8) idle =
    some (.header ⟨0#3, 1#3, true, true, 1#4, 0#12, 0xC9#8⟩) := by decide +kernel
theorem test_typeStart : replyOf (.typeStart 2#3 3#3 true true 16#12 0xDE#8) idle =
    some (.header ⟨2#3, 3#3, true, true, 3#4, 16#12, 0xDE#8⟩) := by decide +kernel
theorem test_typeData : replyOf (.typeData 5#3 6#3 true true 511#12 0x0A#8) idle =
    some (.header ⟨5#3, 6#3, true, true, 4#4, 511#12, 0x0A#8⟩) := by decide +kernel
theorem test_typeStopData : replyOf (.typeStopData 7#3 0#3 true true 0#12 0xCC#8) idle =
    some (.header ⟨7#3, 0#3, true, true, 5#4, 0#12, 0xCC#8⟩) := by decide +kernel
theorem test_typeReserved : replyOf (.typeReserved 7#3 7#3 true true 15#4 4095#12 0xFF#8) idle =
    some (.header ⟨7#3, 7#3, true, true, 15#4, 4095#12, 0xFF#8⟩) := by decide +kernel

/-! ## Frame Codec (95, section 2) -/

theorem test_fcAppend : got State.rxbuf (exec (.fcAppend (bs [0x02])) { idle with rxbuf := bs [0xC0, 0x01] }) =
    some (bs [0xC0, 0x01, 0x02]) := by decide +kernel
/-- The example of R101. -/
theorem test_fcDecode :
    replyOf .fcDecode { idle with rxbuf := bs [0x11, 0xC0, 0x01, 0x02, 0xC0, 0xC0, 0xDB, 0xDC, 0xC0, 0xC0, 0x05] } =
      some (.frames [bs [0xC0, 0x01, 0x02, 0xC0], bs [0xC0, 0xDB, 0xDC, 0xC0]]) := by decide +kernel
/-- `C0 01 C0 02 C0`: a shared middle marker. -/
theorem test_fcDecode_shared_marker : got State.rxbuf (exec .fcDecode { idle with rxbuf := bs [0xC0, 0x01, 0xC0, 0x02, 0xC0] }) =
    some (bs [0x02, 0xC0]) := by decide +kernel
theorem test_fcEncode : replyOf (.fcEncode (bs [0x01, 0xC0, 0xDB, 0xDC, 0xDD, 0x02])) idle =
    some (.bytes (bs [0x01, 0xDB, 0xDC, 0xDB, 0xDD, 0xDC, 0xDD, 0x02])) := by decide +kernel
theorem test_fcDecodeEscapes : replyOf (.fcDecodeEscapes (bs [0xDB, 0xDD, 0xDC])) idle = some (.bytes (bs [0xDB, 0xDC])) ∧
    replyOf (.fcDecodeEscapes (bs [0x01, 0xDB, 0xDC, 0xDB])) idle = some (.raised .malformedEscape) := by decide +kernel

/-! ## Packet Codec (95, section 3) -/

theorem test_pkCrc16 : replyOf (.pkCrc16 (bs [0x31, 0x32, 0x33, 0x34, 0x35, 0x36, 0x37, 0x38, 0x39]) none) idle =
    some (.value16 0x29B1#16) := by decide +kernel
theorem test_pkCrc16_start : replyOf (.pkCrc16 (bs [0x02]) (some 0xF1D1#16)) idle = some (.value16 0x0E7C#16) := by decide +kernel
theorem test_pkHdrCsum : replyOf (.pkHdrCsum 0xFF#8 0xFF#8 0x01#8) idle = some (.byte 0x01#8) := by decide +kernel
theorem test_pkHdrCsum_modes :
    replyOf (.pkHdrCsum 0xD1#8 0x34#8 0x00#8) { idle with config := { cfg with hdrCsumMode := .notsum } } = some (.byte 0xFA#8) ∧
    replyOf (.pkHdrCsum 0xD1#8 0x34#8 0x00#8) { idle with config := { cfg with hdrCsumMode := .negsum } } = some (.byte 0xFB#8) := by
  decide +kernel
theorem test_pkHdrPack : replyOf (.pkHdrPack 3 4 1 1 4 512) idle = some (.bytes (bs [0xE3, 0x04, 0x20, 0x08])) := by decide +kernel
theorem test_pkHdrPack_refuses : replyOf (.pkHdrPack 3 4 2 1 4 512) idle = some .refused := by decide +kernel
theorem test_pkHdrUnpack : replyOf (.pkHdrUnpack 0xD1#8 0x34#8 0x00#8 0x06#8) idle =
    some (.header ⟨1#3, 2#3, true, true, 4#4, 3#12, 0x06#8⟩) := by decide +kernel
theorem test_pkBuild : replyOf (.pkBuild 4 (bs [0xC0, 0xDB, 0x01]) 1) idle =
    some (.bytes (bs [0xC0, 0xD1, 0x34, 0x00, 0x06, 0xDB, 0xDC, 0xDB, 0xDD, 0x01, 0x7E, 0xF9, 0xC0])) := by decide +kernel
theorem test_pkBuild_escaped_checksum : replyOf (.pkBuild 4 (bs [0x07]) 7) idle =
    some (.bytes (bs [0xC0, 0xC7, 0x14, 0x00, 0xDB, 0xDD, 0x07, 0x0C, 0x2D, 0xC0])) := by decide +kernel
theorem test_pkDecode :
    replyOf (.pkDecode (bs [0xC0, 0xD1, 0x34, 0x00, 0x06, 0xDB, 0xDC, 0xDB, 0xDD, 0x01, 0x7E, 0xF9, 0xC0])) idle =
      some (.packet ⟨⟨1#3, 2#3, true, true, 4#4, 3#12, 0x06#8⟩, bs [0xC0, 0xDB, 0x01], 0xF97E#16⟩) := by decide +kernel
/-- The escape check comes first, then the size, then the length field, then the CRC. -/
theorem test_pkDecode_errors :
    replyOf (.pkDecode (bs [0xC0, 0x01, 0xDB, 0xC0])) idle = some (.raised .malformedEscape) ∧
    replyOf (.pkDecode (bs [0xC0, 0xC0])) idle = some (.raised .truncatedPacket) ∧
    replyOf (.pkDecode (bs [0xC0, 0xD1, 0x34, 0x00, 0x06, 0x01, 0x02, 0x3F, 0xCB, 0xC0])) idle = some (.raised .truncatedPacket) ∧
    replyOf (.pkDecode (bs [0xC0, 0x40, 0x00, 0x00, 0x40, 0x00, 0x00, 0xC0])) idle = some (.raised .crcMismatch) := by decide +kernel
theorem test_pkAckAccepts : replyOf (.pkAckAccepts 0 7) idle = some (.truth true) ∧
    replyOf (.pkAckAccepts 1 1) idle = some (.truth false) := by decide +kernel

/-! ## Reliable Transport (95, section 6) -/

/-- T1, T2. -/
theorem test_rtOpen : got (fun s => (s.arqState, s.seqCtr, s.rxbuf, s.failReason)) (exec (.rtOpen 1 512) powerOn) =
    some (.idle, some 0#3, [], some .noReason) := by decide +kernel
theorem test_rtOpen_error : got (fun s => (s.arqState, s.seqCtr, s.reply))
    (exec (.rtOpen 1 512) { powerOn with chan := { powerOn.chan with openAnswers := [.error] } }) =
      some (.closed, none, some (.raised .channelError)) := by decide +kernel
/-- T6, first half. T5. -/
theorem test_rtSend : got (fun s => (s.txFrame, s.seqCtr, s.txSeq, s.arqState)) (exec (.rtSend 1 []) idle) =
    some (some initFrame, some 1#3, some 0#3, .sending) := by decide +kernel
theorem test_rtSend_refuses : got (fun s => (s.reply, s.seqCtr)) (exec (.rtSend 16 []) idle) =
    some (some .refused, some 0#3) := by decide +kernel
/-- T12, first half. -/
theorem test_rtClose : got (fun s => (s.arqState, s.seqCtr, s.failReason, s.chan.isOpen)) (exec .rtClose (failedWith .channelError)) =
    some (.closed, none, none, false) := by decide +kernel
/-- 10_state R25, 90 C8: in `Closed` too `rxbuf` is empty after RT.CLOSE. A close that fails raises nothing (43 R178, 42 R151). -/
theorem test_rtClose_rxbuf : got State.rxbuf (exec .rtClose { powerOn with rxbuf := bs [0xC0] }) = some [] ∧
    got (fun s => (s.arqState, s.chan.isOpen, s.reply)) (exec .rtClose { idle with chan := { idle.chan with closeAnswers := [.error] } }) =
      some (.closed, false, some .nothing) := by decide +kernel
/-- R142's example. T10. -/
theorem test_tTransmit : got (fun s => (s.chan.tx, s.attempts, s.arqState)) (exec .tTransmit (inSend .sending 0 [])) =
    some (initFrame, some 1, .awaitingAck) := by decide +kernel
theorem test_tTransmit_error : got (fun s => (s.chan.tx, s.attempts, s.arqState, s.failReason))
    (exec .tTransmit { inSend .sending 0 [] with chan := { idle.chan with writeAnswers := [.error 3] } }) =
      some (bs [0xC0, 0xC8, 0x01], some 1, .failed, some .channelError) := by decide +kernel
/-- R143's example. -/
theorem test_tRxByte : got (fun s => (s.rxbuf, s.arqState))
    (exec .tRxByte { inSend .awaitingAck 1 [.byte 0xD1#8] with rxbuf := bs [0xC0] }) = some (bs [0xC0, 0xD1], .awaitingAck) := by
  decide +kernel
/-- R144's example: the last byte of `ACKF(1)`. -/
theorem test_tFrameAck : got (fun s => (s.rxbuf, s.arqState, s.seqCtr))
    (exec .tFrameAck { inSend .awaitingAck 1 [.byte 0xC0#8] with rxbuf := 0xC0#8 :: ackContent 1 }) =
      some ([], .acked, some 1#3) := by decide +kernel
/-- R145's example: `ACKF(0)`. -/
theorem test_tFrameNak : got (fun s => (s.rxbuf, s.arqState, s.seqCtr))
    (exec .tFrameNak { inSend .awaitingAck 1 [.byte 0xC0#8] with rxbuf := 0xC0#8 :: ackContent 0 }) =
      some ([], .retrying, some 1#3) := by decide +kernel
/-- R146's example: the empty frame. -/
theorem test_tFrameErr : got (fun s => (s.rxbuf, s.arqState))
    (exec .tFrameErr { inSend .awaitingAck 1 [.byte 0xC0#8] with rxbuf := bs [0xC0] }) = some ([], .retrying) := by decide +kernel
/-- R147: the packet keeps its number. -/
theorem test_tTimeout : got (fun s => (s.seqCtr, s.txSeq, s.events.length, s.arqState)) (exec .tTimeout (inSend .awaitingAck 1 [.timeout])) =
    some (some 0#3, some 0#3, 1, .timedOut) := by decide +kernel
theorem test_tRetry : got State.arqState (exec .tRetry (inSend .timedOut 3 [])) = some .sending := by decide +kernel
/-- R148's example. -/
theorem test_tExhaust : got (fun s => (s.arqState, s.failReason, s.reply)) (exec .tExhaust (inSend .retrying 4 [])) =
    some (.failed, some .retryExhausted, some (.raised .retryExhausted)) := by decide +kernel
theorem test_tDone : got (fun s => (s.arqState, s.reply, s.attempts)) (exec .tDone (inSend .acked 2 [])) =
    some (.idle, some .ok, some 2) := by decide +kernel
/-- T9. -/
theorem test_tChanErr : got (fun s => (s.arqState, s.failReason, s.seqCtr)) (exec .tChanErr (inSend .awaitingAck 1 [.error])) =
    some (.failed, some .channelError, some 1#3) := by decide +kernel

/-! ## Host and channel (43 R171 to R174; 20 R42, R43) -/

/-- R171's example: `RT.SEND(1, [AA BB 00 00])`, whose frame P1 gives. -/
theorem test_sendInitPacket : got State.txFrame (exec (.sendInitPacket (bs [0xAA, 0xBB])) idle) =
    some (some (bs [0xC0, 0xC8, 0x41, 0x00, 0x0A, 0xAA, 0xBB, 0x00, 0x00, 0x45, 0x8B, 0xC0])) := by decide +kernel
/-- S12, S13: the floor for total size 0; two pages of one second for a page and a byte. -/
theorem test_sendStartDfu_wait : eraseWait cfg (totalSize none none (some 0)) = 500000 ∧
    eraseWait { cfg with perPageEraseTime := 1000000 } (totalSize none (some 4096) (some 1)) = 2000000 := by decide
/-- R173: 1024 words of 0.1 ms. -/
theorem test_pageWriteTime : pageWriteTime cfg = 102400 := by decide
/-- R173: a page of 6 bytes takes from one to two words' time. -/
theorem test_pageWriteTime_part : 100 ≤ pageWriteTime { cfg with flashPageSize := 6 } ∧ pageWriteTime { cfg with flashPageSize := 6 } ≤ 200 :=
  pageWriteTime_bounds { cfg with flashPageSize := 6 }
theorem test_sendStartDfu_failed : replyOf (.sendStartDfu ⟨false, false, true⟩ none none none) (failedWith .channelError) =
    some (.raised .channelError) := by decide +kernel
/-- R173: two chunks of at most two bytes, then STOP_DATA. -/
theorem test_sendFirmware : got (fun s => s.host.tasks) (exec (.sendFirmware (bs [1, 2, 3])) { idle with session := some ⟨1, 2⟩ }) =
    some [.send 4 (bs [1, 2]), .progress 1 2, .send 4 (bs [3]), .progress 2 2, .send 5 []] := by decide +kernel
theorem test_sendValidateFirmware : got State.arqState (exec .sendValidateFirmware idle) = some .idle := by decide +kernel
theorem test_sendActivateFirmware : replyOf .sendActivateFirmware (failedWith .retryExhausted) =
    some (.raised .retryExhausted) := by decide +kernel
theorem test_chanRead : got (fun s => (s.reply, s.chan.rxIn))
    (exec .chanRead { idle with chan := { idle.chan with rxIn := [.byte 1#8, .byte 2#8] } }) =
      some (some (.readByte 1#8), [.byte 2#8]) := by decide +kernel
theorem test_chanWrite : got (fun s => (s.reply, s.chan.tx)) (exec (.chanWrite (bs [1, 2])) idle) =
    some (some .writeOk, bs [1, 2]) := by decide +kernel

/-! ## Witnesses: states and operands that meet the hypotheses of the obligations -/

/-- `idle` with a finite buffer, of which `n` bytes are left. -/
def roomFor (n : Nat) : State := { idle with config := { cfg with rxBufCap := some n } }

theorem fits_roomFor (n : Nat) : Fits (roomFor n) n := by
  intro cap h
  cases h
  simp [roomFor, idle, powerOn, State.reset]

theorem fits_unbounded {s : State} (h : s.config.rxBufCap = none) (n : Nat) : Fits s n := by
  intro cap hc
  rw [h] at hc
  cases hc

theorem witness_FcAppendStoresAtTheTail : Fits (roomFor 2) ([1#8].length + [2#8].length) := fits_roomFor 2

theorem witness_FedFramesComeBackInOrder : idle.rxbuf = [] ∧ idle.config.rxBufCap = none ∧
    (bs [0xC0, 0xDB] :: [bs [0xDC, 0xC0]]).flatten = ([[0xC0#8]].map wireFrame).flatten ∧
    [0xC0#8] ≠ [] ∧ [bs [0xC0, 0x01]].flatten ++ [0xC0#8] = wireFrame [0x01#8] := by decide +kernel

theorem witness_BufferRefinesTheDeframer : idle.rxbuf = [] ∧ idle.config.rxBufCap = none := ⟨rfl, rfl⟩

theorem witness_WireBytesPassTheFrameCodec : (encode (.illegalEscape 0xDC#8) = some (.wireBytePair, bs [0xDB, 0xDC]) ∧
    (roomFor 2).arqState ≠ .awaitingAck ∧ Fits (roomFor 2) (bs [0xDB, 0xDC]).length) ∧
    encode .marker = some (.wireByte, bs [0xC0]) ∧ Fits (roomFor 1) (bs [0xC0]).length :=
  ⟨⟨by decide, by decide, fits_roomFor 2⟩, by decide, fits_roomFor 1⟩

theorem witness_ReceivedBytesByClass_open : NoMarker (bs [0x11]) ∧
    ({ idle with rxbuf := bs [0x11, 0xC0, 0xDB, 0xDC] } : State).rxbuf = bs [0x11] ++ 0xC0#8 :: escapedAll [0xC0#8] ∧
    idle.arqState ≠ .awaitingAck ∧ Fits { idle with rxbuf := bs [0x11, 0xC0, 0xDB, 0xDC] } 2 ∧
    0xDC#8 ≠ 0xC0#8 ∧ 0xDC#8 ≠ 0xDB#8 ∧ 0xDB#8 ≠ 0xDC#8 ∧ 0xDB#8 ≠ 0xDD#8 ∧ 0xDB#8 ≠ 0xC0#8 :=
  ⟨by unfold NoMarker; decide, by decide, by decide, fits_unbounded rfl 2, by decide, by decide, by decide, by decide, by decide⟩

theorem witness_ReceivedBytesByClass_closed : NoMarker (roomFor 1).rxbuf ∧ (roomFor 1).arqState ≠ .awaitingAck ∧
    Fits (roomFor 1) 1 ∧ 0xDD#8 ≠ 0xC0#8 ∧ 0xDD#8 ≠ 0xDB#8 :=
  ⟨by unfold NoMarker; decide, by decide, fits_roomFor 1, by decide, by decide⟩

/-- The single bytes that follow an unpaired DB of an open frame. -/
theorem witness_ReceivedBytesByClass_afterEsc : NoMarker (bs [0x11]) ∧
    ({ idle with rxbuf := bs [0x11, 0xC0, 0xDB, 0xDC, 0xDB] } : State).rxbuf = bs [0x11] ++ 0xC0#8 :: (escapedAll [0xC0#8] ++ [0xDB#8]) ∧
    idle.arqState ≠ .awaitingAck ∧ Fits { idle with rxbuf := bs [0x11, 0xC0, 0xDB, 0xDC, 0xDB] } 1 ∧
    0xDB#8 ≠ 0xDC#8 ∧ 0xDB#8 ≠ 0xDD#8 ∧ 0xDB#8 ≠ 0xC0#8 :=
  ⟨by unfold NoMarker; decide, by decide, by decide, fits_unbounded rfl 1, by decide, by decide, by decide⟩

/-- The pairs while no frame is open. -/
theorem witness_ReceivedBytesByClass_pairs : NoMarker (roomFor 2).rxbuf ∧ (roomFor 2).arqState ≠ .awaitingAck ∧ Fits (roomFor 2) 2 ∧
    0xDC#8 ≠ 0xC0#8 ∧ 0xDC#8 ≠ 0xDB#8 := ⟨by unfold NoMarker; decide, by decide, fits_roomFor 2, by decide, by decide⟩

/-- A byte, a pair, and the shortest frame, with just enough room; and the waiting state with FRAME's bytes in the channel. -/
theorem witness_WireByteInAWaitIsTheReceiveStep (n : Nat) :
    encode .marker = some (.wireByte, bs [0xC0]) ∧ encode .escEsc = some (.wireBytePair, bs [0xDB, 0xDD]) ∧
    encode (.frame []) = some (.wireFrame, bs [0xC0, 0xC0]) ∧
    ({ inSend .awaitingAck 1 [] with config := (roomFor n).config } : State).arqState = .awaitingAck ∧
    ({ inSend .awaitingAck 1 [] with config := (roomFor n).config } : State).txSeq = some 0#3 ∧
    Fits { inSend .awaitingAck 1 [] with config := (roomFor n).config } n :=
  ⟨by decide, by decide, by decide, rfl, rfl, fun cap h => fits_roomFor n cap h⟩

/-- The empty content, one with a marker inside, and a packet's; exactly the room they need. -/
theorem witness_WireFormsGiveTheirPackets (content : List Byte) : (roomFor (content.length + 2)).arqState ≠ .awaitingAck ∧
    Fits (roomFor (content.length + 2)) (content.length + 2) ∧ NoMarker (roomFor (content.length + 2)).rxbuf ∧
    NoMarker ([] : List Byte) ∧ NoMarker (ackContent 1) ∧ ¬ NoMarker (bs [0x01, 0xC0]) :=
  ⟨by simp [roomFor, idle], fits_roomFor _, by simp [NoMarker, roomFor, idle, powerOn, State.reset], by unfold NoMarker; decide,
    by unfold NoMarker; decide, by unfold NoMarker; decide⟩

theorem witness_PkCrc16FollowsTheLoops : idle.config.crcPoly = 0x1021#16 := rfl

theorem witness_PkHdrCsumSums : cfg.hdrCsumMode = .ocsum ∧ ({ cfg with hdrCsumMode := .notsum } : Config).hdrCsumMode = .notsum ∧
    ({ cfg with hdrCsumMode := .negsum } : Config).hdrCsumMode = .negsum ∧
    (0x00#8).toNat + (0x00#8).toNat + (0x00#8).toNat = 0 ∧ 0 < (0xFF#8).toNat + (0xFF#8).toNat + (0xFF#8).toNat := by decide

theorem witness_PkHdrPackLaysOutTheFields : (7 ≤ 7 ∧ 1 ≤ 1 ∧ 15 ≤ 15 ∧ 4095 ≤ 4095) ∧
    ¬ (7 ≤ 7 ∧ 7 ≤ 7 ∧ 1 ≤ 1 ∧ 1 ≤ 1 ∧ 15 ≤ 15 ∧ 4096 ≤ 4095) := by decide

theorem witness_PkHdrUnpackInvertsPack :
    replyOf (.pkHdrPack 7 7 1 1 15 4095) idle = some (.bytes [0xFF#8, 0xFF#8, 0xFF#8, 0xFF#8]) := by decide +kernel

theorem witness_PkBuildAssemblesTheFrame : (15 ≤ 15 ∧ (List.replicate 512 0xC0#8).length ≤ 512 ∧ 7 ≤ 7) ∧
    ¬ (15 ≤ 15 ∧ (List.replicate 513 0xC0#8).length ≤ 512 ∧ 7 ≤ 7) := by decide +kernel

theorem witness_PkDecodeChecksInOrder_refused : ∀ content, bs [0xC0] ≠ 0xC0#8 :: (content ++ [0xC0#8]) := by
  intro content h
  have := congrArg List.length h
  simp [bs] at this

theorem witness_PkDecodeChecksInOrder_escape : unescaped (bs [0x01, 0xDB]) = .error .malformedEscape ∧
    unescaped (bs [0x01, 0x02, 0x03, 0x04, 0x05]) = .ok (bs [0x01, 0x02, 0x03, 0x04, 0x05]) := by decide +kernel

/-- 95, 3.5: length field 3 with no payload; `dip` 1 with a wrong and a right CRC; `dip` 0. -/
theorem witness_PkDecodeChecksInOrder_header :
    replyOf (.pkHdrUnpack 0xD1#8 0x34#8 0x00#8 0x06#8) idle = some (.header ⟨1#3, 2#3, true, true, 4#4, 3#12, 0x06#8⟩) ∧
    (3#12).toNat ≠ ([] : List Byte).length ∧
    crc 0x1021 (bs [0x40, 0x00, 0x00, 0x40]) 0xFFFF ≠ 0x00 + 256 * 0x00 ∧
    crc 0x1021 (bs [0x48, 0x00, 0x00, 0x48]) 0xFFFF = 0x53 + 256 * 0xA6 ∧
    replyOf (.pkHdrUnpack 0x08#8 0x00#8 0x00#8 0x08#8) idle = some (.header ⟨0#3, 1#3, false, false, 0#4, 0#12, 0x08#8⟩) := by
  decide +kernel

theorem witness_PkAckAcceptsTheSuccessor : 7 ≤ 7 ∧ 0 ≤ 7 ∧
    replyOf (.pkAckAccepts 0 7) idle = some (.truth true) := by decide +kernel

theorem witness_BuiltPacketsDecodeToTheirFields : 15 ≤ 15 ∧ (List.replicate 512 0xDB#8).length ≤ 512 ∧ 7 ≤ 7 := by decide +kernel

/-- The integrity flag, the lowest length bit, and the last payload bit. -/
theorem witness_OneFlippedBitIsNoticed : (bs [0x55]).length ≤ 512 ∧ idle.config.txDip = true ∧ idle.config.crcPoly.getLsbD 0 = true ∧
    (0 < 4 + (bs [0x55]).length ∧ 6 < 8) ∧ (1 < 4 + (bs [0x55]).length ∧ 4 ≤ 4 ∧ 4 < 8) ∧
    (4 < 4 + (bs [0x55]).length ∧ 7 < 8 ∧ ¬ (4 = 0 ∧ 7 = 6) ∧ ¬ (4 = 1 ∧ 4 ≤ 7) ∧ 4 ≠ 2) := by decide

theorem witness_RtOpenResetsTheSession : powerOn.arqState = .closed ∧ 0 < 1 ∧ 1 ≤ 512 ∧ 512 ≤ 512 ∧
    ({ powerOn.chan with openAnswers := [.ok] } : Channel).openAnswers = .ok :: [] ∧
    ({ powerOn.chan with openAnswers := [.error] } : Channel).openAnswers = .error :: [] ∧ idle.arqState ≠ .closed := by decide

theorem witness_RtSendAcceptsInIdle : idle.arqState = .idle ∧ idle.seqCtr = some 0#3 ∧ 15 ≤ 15 ∧
    (List.replicate 512 0#8).length ≤ 512 := by decide +kernel

theorem witness_FailedRepliesTheStoredReason (mode : UpdateMode) :
    Instr.sendValidateFirmware ∈ ([.rtSend 16 [], .sendInitPacket [], .sendStartDfu mode none none none, .sendFirmware [],
      .sendValidateFirmware, .sendActivateFirmware] : List Instr) ∧
    (failedWith .retryExhausted).arqState = .failed ∧ (failedWith .retryExhausted).failReason = some .retryExhausted ∧
    (failedWith .channelError).failReason = some .channelError := by
  refine ⟨by simp, rfl, rfl, rfl⟩

theorem witness_TransportRefusesOutsideItsConditions : ¬ (powerOn.arqState = .closed ∧ 0 < 1 ∧ 1 ≤ 513 ∧ 513 ≤ 512) ∧
    ¬ (idle.arqState = .closed ∧ 0 < 1 ∧ 1 ≤ 512 ∧ 512 ≤ 512) ∧
    (idle.arqState ≠ .failed ∧ ¬ (idle.arqState = .idle ∧ 16 ≤ 15 ∧ ([] : List Byte).length ≤ 512)) ∧
    ((inSend .sending 0 []).arqState ≠ .idle ∧ (inSend .sending 0 []).arqState ≠ .failed ∧
      (inSend .sending 0 []).arqState ≠ .closed) ∧
    Instr.sendFirmware [] ∈ ([.sendInitPacket [], .sendFirmware [], .sendValidateFirmware] : List Instr) ∧
    ¬ (8 ≤ 7 ∧ 7 ≤ 7) := by decide

theorem witness_RtCloseDiscardsTheSession : idle.arqState = .idle ∧ (failedWith .channelError).arqState = .failed ∧
    powerOn.arqState = .closed := by decide

theorem witness_TransmitWritesTheWholeFrame : (inSend .sending 3 []).arqState = .sending ∧ (inSend .sending 3 []).attempts = some 3 ∧
    (inSend .sending 3 []).txFrame = some initFrame ∧
    ({ idle.chan with writeAnswers := [.ok] } : Channel).writeAnswers = .ok :: [] ∧
    ({ idle.chan with writeAnswers := [.error 0] } : Channel).writeAnswers = .error 0 :: [] := by decide

theorem witness_RxByteKeepsWaiting : (inSend .awaitingAck 1 []).arqState = .awaitingAck ∧
    (inSend .awaitingAck 1 [.nothing]).chan.rxIn = .nothing :: [] ∧
    (inSend .awaitingAck 1 [.byte 0xC0#8]).chan.rxIn = .byte 0xC0#8 :: [] ∧
    ((inSend .awaitingAck 1 []).rxbuf ++ [0xC0#8]).count 0xC0#8 ≤ 1 ∧ Fits (inSend .awaitingAck 1 []) 1 :=
  ⟨rfl, rfl, rfl, by decide, fits_unbounded rfl 1⟩

/-- A buffer whose next byte C0 completes the frame of `content`. -/
theorem cuts_frame (content : List Byte) (h : NoMarker content) :
    Cuts ((0xC0#8 :: content) ++ [0xC0#8]) [0xC0#8 :: (content ++ [0xC0#8])] [] :=
  .turn [] content [] [] [] (by simp [NoMarker]) h (.stop [] (by simp))

/-- A wait that holds an unfinished frame of `content`, with its closing marker next. -/
def nearlyDone (content : List Byte) : State := { inSend .awaitingAck 1 [.byte 0xC0#8] with rxbuf := 0xC0#8 :: content }

/-- The packets that `ackContent` holds. -/
def ack0 : Packet := { header := ⟨0#3, 0#3, true, false, 0#4, 0#12, 0x40#8⟩, payload := [], crc := 0xA298#16 }
def ack1 : Packet := { header := ⟨0#3, 1#3, true, false, 0#4, 0#12, 0x48#8⟩, payload := [], crc := 0xA653#16 }

theorem frame_replied {f : List Byte} {s : State} {p : Packet} (hd : frameDomain f = true) (h : decodeFrame s.config f = .ok p) :
    exec (.pkDecode f) s = .next { s with reply := some (.packet p) } := by
  simp only [exec, execPkDecode, hd, h, answerPacket, answer, State.withReply, if_true]

theorem raw_replied {u : List Byte} {s : State} {p : Packet} (h : decodeRaw s.config u = .ok p) :
    exec (.rawPacket u) s = .next { s with reply := some (.packet p) } := by
  simp only [exec, execRawPacket, h, answerPacket, answer, State.withReply]

theorem ack_decoded : decodeFrame cfg (0xC0#8 :: (ackContent 0 ++ [0xC0#8])) = .ok ack0 ∧
    decodeFrame cfg (0xC0#8 :: (ackContent 1 ++ [0xC0#8])) = .ok ack1 ∧ decodeRaw cfg (ackContent 1) = .ok ack1 := by decide +kernel

theorem witness_DecodedFrameDecidesByItsAck (a : Nat) (h : a = 0 ∨ a = 1) : (nearlyDone (ackContent a)).arqState = .awaitingAck ∧
    (nearlyDone (ackContent a)).chan.rxIn = .byte 0xC0#8 :: [] ∧ Fits (nearlyDone (ackContent a)) 1 ∧
    Cuts ((nearlyDone (ackContent a)).rxbuf ++ [0xC0#8]) [0xC0#8 :: (ackContent a ++ [0xC0#8])] [] ∧
    (∃ p, exec (.pkDecode (0xC0#8 :: (ackContent a ++ [0xC0#8]))) (nearlyDone (ackContent a)) =
      .next { nearlyDone (ackContent a) with reply := some (.packet p) } ∧ (p.header.ack = 0#3 + 1#3 ↔ a = 1)) ∧
    (nearlyDone (ackContent a)).txSeq = some 0#3 := by
  refine ⟨rfl, rfl, fits_unbounded rfl 1, cuts_frame _ ?_, ?_, rfl⟩
  · rcases h with rfl | rfl <;> (unfold NoMarker; decide)
  · rcases h with rfl | rfl
    · exact ⟨ack0, frame_replied (by decide) ack_decoded.1, by decide⟩
    · exact ⟨ack1, frame_replied (by decide) ack_decoded.2.1, by decide⟩

/-- The same with the bytes written out, `dip` set: `ACKF(a)`; and `dip` clear with CRC bytes that are not looked at. -/
theorem witness_DecodedFrameDecidesByItsAck_bytes (a : Nat) (h : a = 0 ∨ a = 1) : NoMarker ([] : List Byte) ∧
    (∃ b0 b1 b2 b3 lo hi, (nearlyDone (ackContent a)).rxbuf = [] ++ 0xC0#8 :: escapedAll ([b0, b1, b2, b3] ++ [] ++ [lo, hi]) ∧
      b1.toNat / 16 + 16 * b2.toNat = ([] : List Byte).length ∧ b0.getLsbD 6 = true ∧
      crc (nearlyDone (ackContent a)).config.crcPoly.toNat ([b0, b1, b2, b3] ++ []) 0xFFFF = lo.toNat + 256 * hi.toNat ∧
      (b0.toNat / 8 % 8 = ((0#3 : Seq).toNat + 1) % 8 ↔ a = 1)) ∧
    ((0x08#8 : Byte).getLsbD 6 = false ∧ (0x08#8 : Byte).toNat / 8 % 8 = ((0#3 : Seq).toNat + 1) % 8) := by
  refine ⟨by unfold NoMarker; decide, ?_, by decide⟩
  rcases h with rfl | rfl
  · exact ⟨0x40#8, 0x00#8, 0x00#8, 0x40#8, 0x98#8, 0xA2#8, by decide +kernel⟩
  · exact ⟨0x48#8, 0x00#8, 0x00#8, 0x48#8, 0x53#8, 0xA6#8, by decide +kernel⟩

theorem witness_UndecodableFrameLeadsToRetrying : (nearlyDone []).arqState = .awaitingAck ∧
    (nearlyDone []).chan.rxIn = .byte 0xC0#8 :: [] ∧ Fits (nearlyDone []) 1 ∧
    Cuts ((nearlyDone []).rxbuf ++ [0xC0#8]) [bs [0xC0, 0xC0]] [] ∧
    exec (.pkDecode (bs [0xC0, 0xC0])) (nearlyDone []) = .next { nearlyDone [] with reply := some (.raised .truncatedPacket) } :=
  ⟨rfl, rfl, fits_unbounded rfl 1, cuts_frame [] (by unfold NoMarker; decide), rfl⟩

/-- A content for each of the four errors: a dangling DB; five bytes; length field 1 without a payload; a wrong CRC with `dip` set. -/
theorem witness_UndecodableFrameLeadsToRetrying_bytes (content : List Byte) : (nearlyDone content).rxbuf = [] ++ 0xC0#8 :: content ∧
    (nearlyDone content).config = cfg ∧
    (NoMarker (bs [0xDB]) ∧ unescaped (bs [0xDB]) = .error .malformedEscape) ∧
    (NoMarker (bs [1, 2, 3, 4, 5]) ∧ unescaped (bs [1, 2, 3, 4, 5]) = .ok (bs [1, 2, 3, 4, 5]) ∧ (bs [1, 2, 3, 4, 5]).length < 6) ∧
    (NoMarker (bs [0x00, 0x10, 0, 0, 0, 0]) ∧
      unescaped (bs [0x00, 0x10, 0, 0, 0, 0]) = .ok ([0x00#8, 0x10#8, 0#8, 0#8] ++ [] ++ [0#8, 0#8]) ∧
      (0x10#8 : Byte).toNat / 16 + 16 * (0#8 : Byte).toNat ≠ ([] : List Byte).length) ∧
    (NoMarker (bs [0x40, 0, 0, 0x40, 0, 0]) ∧
      unescaped (bs [0x40, 0, 0, 0x40, 0, 0]) = .ok ([0x40#8, 0#8, 0#8, 0x40#8] ++ [] ++ [0#8, 0#8]) ∧ (0x40#8 : Byte).getLsbD 6 = true ∧
      crc cfg.crcPoly.toNat ([0x40#8, 0#8, 0#8, 0x40#8] ++ []) 0xFFFF ≠ (0#8 : Byte).toNat + 256 * (0#8 : Byte).toNat) := by
  refine ⟨rfl, rfl, ?_, ?_, ?_, ?_⟩ <;> (unfold NoMarker; decide +kernel)

theorem witness_TimeoutResetsTheCounter : (inSend .awaitingAck 4 [.timeout]).arqState = .awaitingAck ∧
    (inSend .awaitingAck 4 [.timeout]).chan.rxIn = .timeout :: [] := ⟨rfl, rfl⟩

theorem witness_DoneAndChannelErrorEndTheSend : (inSend .acked 4 []).arqState = .acked ∧
    (inSend .awaitingAck 1 [.error]).arqState = .awaitingAck ∧ (inSend .awaitingAck 1 [.error]).chan.rxIn = .error :: [] := by decide

theorem witness_TransitionsFollowTheTable : isTransition .tDone = true ∧
    exec .tDone (inSend .acked 1 []) = .next { inSend .idle 1 [] with reply := some .ok } := ⟨rfl, rfl⟩

theorem witness_SendInitPacketPadsAndSends : idle.arqState = .idle ∧ idle.seqCtr = some 0#3 ∧
    (List.replicate 510 0#8).length ≤ 510 := by decide +kernel

theorem witness_SendStartDfuQueuesTheEraseWait : idle.arqState = .idle ∧ idle.seqCtr = some 0#3 := ⟨rfl, rfl⟩

theorem witness_SendFirmwareQueuesTheChunks : idle.arqState = .idle ∧ idle.session = some ⟨1000000, 512⟩ ∧ 1 ≤ 512 ∧
    ({ idle with session := some ⟨1, 1⟩ } : State).session = some ⟨1, 1⟩ ∧ 1 ≤ 1 ∧
    ([] : List Byte) = [] ∧ [0#8] ≠ [] := by decide

theorem witness_ValidateAndActivateQueueTheirExpansions : idle.arqState = .idle := rfl

theorem witness_EmptyScriptsAnswerTheDefault : (powerOn.chan.openAnswers = [] ∧ powerOn.arqState = .closed ∧ 0 < 1 ∧ 1 ≤ 1 ∧ 1 ≤ 512) ∧
    ((inSend .sending 3 []).chan.writeAnswers = [] ∧ (inSend .sending 3 []).arqState = .sending ∧
      (inSend .sending 3 []).attempts = some 3 ∧ (inSend .sending 3 []).txFrame = some initFrame) ∧
    (inSend .awaitingAck 1 []).chan.rxIn = [] ∧ (inSend .awaitingAck 1 []).arqState = .awaitingAck := by decide

theorem witness_ChannelPrimitivesAnswer : (inSend .awaitingAck 1 [.byte 0#8]).chan.rxIn = .byte 0#8 :: [] ∧
    (inSend .awaitingAck 1 [.nothing]).chan.rxIn = .nothing :: [] ∧
    (inSend .awaitingAck 1 [.error]).chan.rxIn = .error :: [] ∧ (inSend .awaitingAck 1 [.timeout]).chan.rxIn = .timeout :: [] ∧
    ({ idle.chan with writeAnswers := [.ok] } : Channel).writeAnswers = .ok :: [] ∧
    ({ idle.chan with writeAnswers := [.error 1] } : Channel).writeAnswers = .error 1 :: [] := by decide

/-- Each way to receive with one byte too many, and a state within its capacity with a next state. -/
theorem witness_OverflowIsNeverStored : (roomFor 1).config.rxBufCap = some 1 ∧ 1 < (roomFor 1).rxbuf.length + (bs [1, 2]).length ∧
    0 < (roomFor 0).rxbuf.length + 1 ∧ (roomFor 0).arqState ≠ .awaitingAck ∧
    ({ roomFor 0 with arqState := .awaitingAck } : State).arqState = .awaitingAck ∧
    (encode .escMarker = some (.wireBytePair, bs [0xDB, 0xDC]) ∧ 1 < (roomFor 1).rxbuf.length + (bs [0xDB, 0xDC]).length) ∧
    (encode (.frame []) = some (.wireFrame, bs [0xC0, 0xC0]) ∧ 1 < (roomFor 1).rxbuf.length + (bs [0xC0, 0xC0]).length) ∧
    ({ inSend .awaitingAck 1 [.byte 0#8] with config := (roomFor 0).config } : State).chan.rxIn = .byte 0#8 :: [] ∧
    (roomFor 1).rxbuf.length ≤ 1 ∧ got State.rxbuf (exec .marker (roomFor 1)) = some (bs [0xC0]) := by decide +kernel

/-- The host's side of `idle` with a program and tasks. -/
def hosted (program : List Request) (tasks : List HostTask) : State :=
  { idle with host := { idle.host with program := program, tasks := tasks } }

theorem witness_StepRunsTheFetchedRequest : hostHasTurn idle.arqState = true ∧ (hosted [] []).host.tasks = [] ∧
    (hosted [.word .wireByte [0xC0#8]] []).host.program = .word .wireByte [0xC0#8] :: [] ∧
    decode .wireByte [0xC0#8] = .ok .marker ∧
    (hosted [.word .wireByte []] []).host.program = .word .wireByte [] :: [] ∧ decode .wireByte [] = .error .wrongLength ∧
    (hosted [.op .rtClose] []).host.program = .op .rtClose :: [] ∧ (hosted [] []).host.program = [] := by decide

theorem witness_StepRunsTheHostTasks : (hosted [] [.send 4 []]).arqState = .idle ∧
    (hosted [] [.send 4 []]).host.tasks = .send 4 [] :: [] ∧ (hosted [] [.wait 7]).host.tasks = .wait 7 :: [] ∧
    (hosted [] [.progress 1 3]).host.tasks = .progress 1 3 :: [] ∧ 2 * 100 % 2 = 0 ∧
    ({ hosted [] [.wait 7] with arqState := .failed } : State).arqState = .failed ∧ (hosted [] [.wait 7]).host.tasks ≠ [] := by decide

theorem inSend_states : InSend (inSend .sending 0 []) ∧ InSend (inSend .awaitingAck 1 []) ∧ InSend (inSend .acked 1 []) ∧
    InSend (inSend .retrying 3 []) ∧ InSend (inSend .timedOut 4 []) := by
  simp [InSend, inSend, hostHasTurn]

theorem witness_StepTakesTheTransition : InSend (inSend .sending 0 []) ∧ InSend (inSend .awaitingAck 1 [.timeout]) ∧
    (inSend .awaitingAck 1 [.timeout]).chan.rxIn = .timeout :: [] ∧ (inSend .timedOut 4 []).attempts = some 4 :=
  ⟨inSend_states.1, rfl, rfl, rfl⟩

/-- Each way a byte can go: no frame complete; `ACKF(1)` and `ACKF(0)` for the number 0; the empty frame. -/
theorem witness_StepTakesTheTransition_bytes : InSend (inSend .awaitingAck 1 [.byte 0xC0#8]) ∧ InSend (nearlyDone []) ∧
    (inSend .awaitingAck 1 [.byte 0xC0#8]).chan.rxIn = .byte 0xC0#8 :: [] ∧
    ((inSend .awaitingAck 1 [.byte 0xC0#8]).rxbuf ++ [0xC0#8]).count 0xC0#8 ≤ 1 ∧
    Cuts ((nearlyDone (ackContent 1)).rxbuf ++ [0xC0#8]) [0xC0#8 :: (ackContent 1 ++ [0xC0#8])] [] ∧
    exec (.pkDecode (0xC0#8 :: (ackContent 1 ++ [0xC0#8]))) (nearlyDone (ackContent 1)) =
      .next { nearlyDone (ackContent 1) with reply := some (.packet ack1) } ∧
    (nearlyDone (ackContent 1)).txSeq = some 0#3 ∧ ack1.header.ack = 0#3 + 1#3 ∧ ack0.header.ack ≠ 0#3 + 1#3 ∧
    exec (.pkDecode (bs [0xC0, 0xC0])) (nearlyDone []) = .next { nearlyDone [] with reply := some (.raised .truncatedPacket) } :=
  ⟨inSend_states.2.1, inSend_states.2.1, rfl, by decide, cuts_frame _ (by unfold NoMarker; decide),
    frame_replied (by decide) ack_decoded.2.1, rfl, by decide, by decide, rfl⟩

theorem witness_DecodeEncodeAgree : (Instr.typeReserved 7#3 7#3 true true 15#4 4095#12 0xFF#8).wf = true ∧
    encode (.typeReserved 7#3 7#3 true true 15#4 4095#12 0xFF#8) = some (.headerWord, bs [0xFF, 0xFF, 0xFF, 0xFF]) := by decide

theorem witness_EncodeDecodeAgree : decode .wireBytePair (bs [0xDB, 0xC0]) = .ok (.illegalEscape 0xC0#8) := by decide

theorem initFrame_built : initFrame = buildFrame cfg 1#4 [] 0#3 := by decide +kernel

/-- The invariant holds inside an RT.SEND, in every one of its states. -/
theorem inv_inSend (a : ArqState) (n : Nat) (rx : List RxInput) (ha : hostHasTurn a = false) (hn : n ≤ 4)
    (h0 : a = .sending → n < 4) (h1 : a ≠ .sending → 1 ≤ n) : Invariant (inSend a n rx) := by
  have hc : a ≠ .closed := by rintro rfl; cases ha
  have hf : a ≠ .failed := by rintro rfl; cases ha
  refine ⟨fun h => absurd h hc, fun _ => ⟨⟨_, rfl⟩, _, rfl, by decide⟩, fun _ => ⟨n, rfl, hn, h0, fun _ => h1⟩,
    fun _ => ⟨.noReason, rfl, by simpa [inSend] using hf⟩, fun _ => ⟨1#4, [], 0#3, by simp, rfl, ?_, .inl rfl⟩, by simpa [inSend, idle] using hc⟩
  exact congrArg some initFrame_built

theorem witness_RetryUntilFourAttempts : ((inSend .retrying 3 []).arqState = .retrying ∧ (inSend .retrying 3 []).attempts = some 3 ∧
    3 ≤ 3 ∧ (inSend .timedOut 4 []).arqState = .timedOut ∧ (inSend .timedOut 4 []).attempts = some 4 ∧ 4 > 3) ∧
    Invariant (inSend .retrying 3 []) ∧ Invariant (inSend .timedOut 4 []) :=
  ⟨by decide, inv_inSend _ _ _ rfl (by omega) (by simp) (by simp), inv_inSend _ _ _ rfl (by omega) (by simp) (by simp)⟩

theorem witness_StepKeepsTheInvariant : Invariant (inSend .acked 1 []) ∧
    step (inSend .acked 1 []) = .next { inSend .idle 1 [] with reply := some .ok } :=
  ⟨inv_inSend _ _ _ rfl (by omega) (by simp) (by simp), rfl⟩

theorem witness_StepReadsNoEmptyRegister : Invariant (inSend .sending 3 []) := inv_inSend _ _ _ rfl (by omega) (by simp) (by simp)

theorem witness_SendNeverGetsStuck : Invariant (inSend .awaitingAck 4 [.byte 0xC0#8]) ∧ InSend (inSend .awaitingAck 4 [.byte 0xC0#8]) ∧
    (inSend .awaitingAck 4 [.byte 0xC0#8]).config.rxBufCap = none :=
  ⟨inv_inSend _ _ _ rfl (by omega) (by simp) (by simp), rfl, rfl⟩

theorem witness_RtSendAlwaysEnds : Invariant (inSend .sending 0 (List.replicate 4 .timeout)) ∧
    InSend (inSend .sending 0 (List.replicate 4 .timeout)) ∧
    (inSend .sending 0 (List.replicate 4 .timeout)).config.rxBufCap = none ∧
    4 ≤ (inSend .sending 0 (List.replicate 4 .timeout)).chan.rxIn.count .timeout :=
  ⟨inv_inSend _ _ _ rfl (by omega) (by simp) (by simp), rfl, rfl, by decide⟩

/-- `idle` with four timeouts to come and some of the writes scripted ok. -/
def silent (writes : Nat) : State := { idle with chan := { idle.chan with
  rxIn := [.timeout, .timeout, .timeout, .timeout] ++ [], writeAnswers := List.replicate writes .ok } }

theorem witness_SilentPeerExhaustsFourAttempts (writes : Nat) : (silent writes).arqState = .idle ∧ (silent writes).seqCtr = some 0#3 ∧ 5 ≤ 15 ∧
    ([] : List Byte).length ≤ 512 ∧ (∀ a ∈ (silent writes).chan.writeAnswers.take 4, a = .ok) ∧
    (silent writes).chan.rxIn = [.timeout, .timeout, .timeout, .timeout] ++ [] :=
  ⟨rfl, rfl, by decide, by decide, fun _ h => List.eq_of_mem_replicate (List.mem_of_mem_take h), rfl⟩

/-- `idle` with room for 8 bytes, the frame of `ACKF(1)` on its way, a byte behind it, and the first write scripted ok. -/
def acknowledged : State :=
  { roomFor 8 with chan := { idle.chan with
    rxIn := (wireFrame (ackContent 1)).map .byte ++ [.byte 0x11#8], writeAnswers := [.ok, .error 3] } }

theorem witness_PromptAckCompletesTheSend : acknowledged.arqState = .idle ∧ acknowledged.seqCtr = some 0#3 ∧ 1 ≤ 15 ∧
    ([] : List Byte).length ≤ 512 ∧ (∀ a ∈ acknowledged.chan.writeAnswers.take 1, a = .ok) ∧
    Fits acknowledged (wireFrame (ackContent 1)).length ∧ NoMarker acknowledged.rxbuf ∧
    (∃ p, exec (.rawPacket (ackContent 1)) acknowledged = .next { acknowledged with reply := some (.packet p) } ∧
      p.header.ack = 0#3 + 1#3) ∧
    acknowledged.chan.rxIn = (wireFrame (ackContent 1)).map .byte ++ [.byte 0x11#8] :=
  ⟨rfl, rfl, by decide, by decide, by decide, fun cap h => fits_roomFor 8 cap h, by unfold NoMarker; decide,
    ⟨ack1, raw_replied ack_decoded.2.2, by decide⟩, rfl⟩

theorem witness_FailedIsFinal : (failedWith .retryExhausted).arqState = .failed ∧ Instr.fcEncode [] ≠ .rtClose ∧
    (exec (.fcEncode []) (failedWith .retryExhausted) = .next { failedWith .retryExhausted with reply := some (.bytes []) }) ∧
    (∀ b, Instr.fcEncode [] ≠ .chanWrite b) ∧ 15 ≤ 15 ∧ ([] : List Byte).length ≤ 512 ∧
    (failedWith .retryExhausted).failReason = some .retryExhausted ∧ (failedWith .channelError).failReason = some .channelError := by
  refine ⟨rfl, by simp, rfl, by simp, by simp, by simp, rfl, rfl⟩

theorem witness_OnlyTransmitWrites : (∀ b, Instr.tTransmit ≠ .chanWrite b) ∧
    ∃ t, exec .tTransmit (inSend .sending 0 []) = .next t := ⟨by simp, _, rfl⟩

theorem witness_CounterChangesOnlyWhereStated : ∃ t, exec .tTimeout (inSend .awaitingAck 1 [.timeout]) = .next t := ⟨_, rfl⟩

theorem witness_PacketIsImmutable : ∃ t, exec .tRetry (inSend .timedOut 3 []) = .next t := ⟨_, rfl⟩

theorem witness_EventsOnlyGrow : ∃ t, step (inSend .awaitingAck 1 [.timeout]) = .next t := ⟨_, rfl⟩

theorem witness_ConfigurationIsReadOnly : (∃ t, exec .tDone (inSend .acked 1 []) = .next t) ∧ (∀ a n, Instr.tDone ≠ .rtOpen a n) ∧
    Instr.tDone ≠ .rtClose ∧ touchesRxbuf .tDone = false := ⟨⟨_, rfl⟩, by simp, by simp, rfl⟩

end Sys2Proof.Tests
end

section
/-! Proofs about the scope rules (00_scope R4, 10_state R10, R18): which of `config`, `session` and `rxbuf` an instruction can write.
Each is read off `Effect`, which writes every next state out as updates of the state before. -/

namespace Sys2Proof.Machine

open Sys2Proof.Spec

/-- A received wire byte, pair or frame is an operation that may write `rxbuf` (30 R68, 10_state R10). -/
theorem touchesRxbuf_of_isWire {i : Instr} (h : isWire i = true) : touchesRxbuf i = true := by
  cases i <;> simp [isWire] at h <;> rfl

/-- Every instruction after whose bytes a wait can stand somewhere receives, so it may write `rxbuf` (42 R143, 10_state R10). -/
theorem touchesRxbuf_of_mem_waitEnds {i : Instr} {a : ArqState} (h : a ∈ waitEnds i) : touchesRxbuf i = true := by
  cases i <;> simp [waitEnds] at h <;> rfl

namespace Effect

variable {i : Instr} {s t : State}

/-- R4: no update in any effect is of the parameters. -/
theorem config_eq (h : Effect s i t) : t.config = s.config := by
  cases h <;> rfl

/-- R18: only the session reset of RT.OPEN and the session's end of RT.CLOSE write the session's configuration. -/
theorem session_eq (h : Effect s i t) (hopen : ∀ a n, i ≠ .rtOpen a n) (hclose : i ≠ .rtClose) : t.session = s.session := by
  cases h with
  | opened => exact absurd rfl (hopen _ _)
  | closed => exact absurd rfl hclose
  | closedAgain => exact absurd rfl hclose
  | _ => rfl

/-- R10: the effects that write `rxbuf` are those of the operations that `touchesRxbuf` lists. -/
theorem rxbuf_eq (h : Effect s i t) (hi : touchesRxbuf i = false) : t.rxbuf = s.rxbuf := by
  cases h with
  | buffered _ _ _ hwriter =>
    obtain ⟨hwire, -⟩ | ⟨bytes, rfl⟩ | rfl := hwriter
    · exact absurd (touchesRxbuf_of_isWire hwire) (by simp [hi])
    · cases hi
    · cases hi
  | received _ _ _ _ _ ha => exact absurd (touchesRxbuf_of_mem_waitEnds ha) (by simp [hi])
  | opened => cases hi
  | closed => cases hi
  | closedAgain => cases hi
  | _ => rfl

end Effect

end Sys2Proof.Machine

/-- Settles O60: every next state of `exec` is one of the effects, and each effect keeps the three fields as said. -/
theorem Sys2Proof.configurationIsReadOnly : Obligations.ConfigurationIsReadOnly := by
  intro i s t h
  have heffect := Sys2Proof.Machine.exec_effect h
  exact ⟨heffect.config_eq, heffect.session_eq, heffect.rxbuf_eq⟩
end

section
/-! Proofs about the invariant of R26 (10_state): each update that a step makes keeps it, so every step does. `Effect` and `Stay`
list the updates. -/

namespace Sys2Proof.Machine

/-! ## The invariant of R26 -/

/-- What the invariant speaks of: the registers but `rxbuf` and `events`, the parameters, and the hold of the handle. -/
def State.guarded (s : State) : ArqState × Option Seq × Option Nat × Option (List Byte) × Option Seq × Option FailReason ×
    Option Session × Config × Bool :=
  (s.arqState, s.seqCtr, s.attempts, s.txFrame, s.txSeq, s.failReason, s.session, s.config, s.chan.isOpen)

/-- A wait is inside an RT.SEND (42 R143). -/
theorem inSend_of_awaitingAck {s : State} (h : s.arqState = .awaitingAck) : InSend s := by
  simp [InSend, h, hostHasTurn]

/-- A failed attempt is inside an RT.SEND (42 R148). -/
theorem inSend_of_attemptFailed {s : State} (h : s.arqState = .retrying ∨ s.arqState = .timedOut) : InSend s := by
  obtain h | h := h <;> simp [InSend, h, hostHasTurn]

theorem not_closed_of_inSend {s : State} (h : InSend s) : s.arqState ≠ .closed := by
  intro hc
  simp [InSend, hc, hostHasTurn] at h

theorem not_failed_of_inSend {s : State} (h : InSend s) : s.arqState ≠ .failed := by
  intro hc
  simp [InSend, hc, hostHasTurn] at h

namespace Invariant

variable {s t : State} {a : ArqState}

/-- The frame of the invariant: whatever else a step writes, the invariant does not see. -/
theorem of_guarded_eq (hs : Invariant s) (h : t.guarded = s.guarded) : Invariant t := by
  simp only [State.guarded, Prod.mk.injEq] at h
  obtain ⟨harq, hctr, hatt, hframe, hseq, hfail, hsess, hcfg, hopen⟩ := h
  obtain ⟨hclosed, hsession, hattempts, hreason, hpacket, hhandle⟩ := hs
  constructor <;> simp only [InSend, harq, hctr, hatt, hframe, hseq, hfail, hsess, hcfg, hopen] <;> assumption

/-- Without a session: `Closed`, the registers empty and the handle released (10_state R25). -/
theorem of_closed (harq : s.arqState = .closed)
    (hregs : s.seqCtr = none ∧ s.attempts = none ∧ s.txFrame = none ∧ s.txSeq = none ∧ s.failReason = none ∧ s.session = none)
    (hopen : s.chan.isOpen = false) : Invariant s where
  noSession _ := hregs
  inSession h := absurd harq h
  attemptsBound h := absurd harq h
  failedHasReason h := absurd harq h
  packetInHand h := by simp [InSend, harq, hostHasTurn] at h
  handle := by simp [harq, hopen]

/-- The session reset of RT.OPEN on a held handle (R140). -/
theorem resetSession {u : Micros} {n : Nat} (hd : openDomain u n = true) (hopen : s.chan.isOpen = true) :
    Invariant (resetSession u n s) where
  noSession h := by cases h
  inSession _ := ⟨⟨0#3, rfl⟩, ⟨u, n⟩, rfl, by simpa [openDomain] using hd⟩
  attemptsBound _ := ⟨0, rfl, by decide, by rintro ⟨⟩, by rintro ⟨⟩⟩
  failedHasReason _ := ⟨.noReason, rfl, by simp [Machine.resetSession]⟩
  packetInHand h := by cases h
  handle := by simp [Machine.resetSession, hopen]

/-- The end of a session, the handle released (R151). -/
theorem dropSession (hopen : s.chan.isOpen = false) : Invariant (dropSession s) :=
  of_closed rfl ⟨rfl, rfl, rfl, rfl, rfl, rfl⟩ hopen

/-- The acceptance of a packet in `Idle` (R141): the counter is one ahead of the latched number. -/
theorem accepted {type : BitVec 4} {payload : List Byte} {q : Seq} (hs : Invariant s) (hidle : s.arqState = .idle)
    (hlen : payload.length ≤ payloadMax) : Invariant (accepted type payload q s) where
  noSession h := by cases h
  inSession _ := ⟨⟨_, rfl⟩, (hs.inSession (by simp [hidle])).2⟩
  attemptsBound _ := ⟨0, rfl, by decide, fun _ => by decide, fun _ h => absurd rfl h⟩
  failedHasReason _ := by
    obtain ⟨r, hr, hiff⟩ := hs.failedHasReason (by simp [hidle])
    exact ⟨r, hr, by simpa [hidle, Machine.accepted] using hiff⟩
  packetInHand _ := ⟨type, payload, q, hlen, rfl, rfl, .inl rfl⟩
  handle := by simp [Machine.accepted, hs.handle, hidle]

/-- One attempt more (R142): R26 (b) leaves room for it. -/
theorem attempted {n : Nat} (hs : Invariant s) (hsend : s.arqState = .sending) (hn : s.attempts = some n) :
    Invariant ((s.withAttempts (some (n + 1))).withArq .awaitingAck) where
  noSession h := by cases h
  inSession _ := hs.inSession (by simp [hsend])
  attemptsBound _ := by
    obtain ⟨m, hm, -, hroom, -⟩ := hs.attemptsBound (by simp [hsend])
    obtain rfl : n = m := Option.some.inj (hn.symm.trans hm)
    exact ⟨n + 1, rfl, hroom hsend, by rintro ⟨⟩, fun _ _ => Nat.le_add_left 1 n⟩
  failedHasReason _ := by
    obtain ⟨r, hr, hiff⟩ := hs.failedHasReason (by simp [hsend])
    exact ⟨r, hr, by simpa [hsend] using hiff⟩
  packetInHand _ := hs.packetInHand (by simp [InSend, hsend, hostHasTurn])
  handle := by simp [hs.handle, hsend]

/-- After an attempt, the block may go on to any state but `Closed` and `Failed`: to `Sending` only with an attempt left (R148). -/
theorem withArq (hs : Invariant s) (hin : InSend s) (hsend : s.arqState ≠ .sending) (hclosed : a ≠ .closed) (hfailed : a ≠ .failed)
    (hroom : a = .sending → ∃ n, s.attempts = some n ∧ n < maxAttempts) : Invariant (s.withArq a) where
  noSession h := absurd h hclosed
  inSession _ := hs.inSession (not_closed_of_inSend hin)
  attemptsBound _ := by
    obtain ⟨n, hn, hmax, -, hone⟩ := hs.attemptsBound (not_closed_of_inSend hin)
    refine ⟨n, hn, hmax, fun ha => ?_, fun _ _ => hone hin hsend⟩
    obtain ⟨m, hm, hlt⟩ := hroom ha
    exact Option.some.inj (hm.symm.trans hn) ▸ hlt
  failedHasReason _ := by
    obtain ⟨r, hr, hiff⟩ := hs.failedHasReason (not_closed_of_inSend hin)
    exact ⟨r, hr, by simpa [hfailed, not_failed_of_inSend hin] using hiff⟩
  packetInHand _ := hs.packetInHand hin
  handle := by simp [hs.handle, hclosed, not_closed_of_inSend hin]

/-- A timeout inside an RT.SEND sets the counter to 0 (R147). -/
theorem withSeqCtr_zero (hs : Invariant s) (hin : InSend s) : Invariant (s.withSeqCtr (some 0#3)) where
  noSession h := absurd h (not_closed_of_inSend hin)
  inSession h := ⟨⟨_, rfl⟩, (hs.inSession h).2⟩
  attemptsBound := hs.attemptsBound
  failedHasReason := hs.failedHasReason
  packetInHand h := by
    obtain ⟨type, payload, q, hlen, hq, hf, -⟩ := hs.packetInHand h
    exact ⟨type, payload, q, hlen, hq, hf, .inr rfl⟩
  handle := hs.handle

/-- The fatal end of a session, the reason stored and the handle kept (60 R210). -/
theorem failWith {r : FailReason} (e : Err) (hs : Invariant s) (hclosed : s.arqState ≠ .closed) (hr : r ≠ .noReason) :
    Invariant (failWith r e s) where
  noSession h := by cases h
  inSession _ := hs.inSession hclosed
  attemptsBound _ := by
    obtain ⟨n, hn, hmax, -, -⟩ := hs.attemptsBound hclosed
    exact ⟨n, hn, hmax, by rintro ⟨⟩, by rintro ⟨⟩⟩
  failedHasReason _ := ⟨r, rfl, by simp [Machine.failWith, hr]⟩
  packetInHand h := by cases h
  handle := by simp [Machine.failWith, hs.handle, hclosed]

end Invariant

/-- Received bytes leave the wait going on, acknowledged, or with the attempt failed (42 R143 to R146). -/
theorem waitEnds_subset (i : Instr) : waitEnds i ⊆ [ArqState.awaitingAck, .acked, .retrying] := by
  cases i <;> simp [waitEnds]

/-- No wait after received bytes stands in `Closed`, `Failed` or `Sending` (42 R143 to R146). -/
theorem mem_waitEnds_ne {i : Instr} {a : ArqState} (h : a ∈ waitEnds i) : a ≠ .closed ∧ a ≠ .failed ∧ a ≠ .sending := by
  have hmem : a ∈ [ArqState.awaitingAck, .acked, .retrying] := waitEnds_subset i h
  simp only [List.mem_cons, List.not_mem_nil, or_false] at hmem
  obtain rfl | rfl | rfl := hmem <;> simp

/-- The invariant of R26 is kept by every effect an instruction can have. -/
theorem Effect.invariant {i : Instr} {s t : State} (h : Effect s i t) (hs : Invariant s) : Invariant t := by
  cases h with
  | replied => exact hs.of_guarded_eq rfl
  | buffered => exact hs.of_guarded_eq rfl
  | received i buf rx a harq ha =>
    obtain ⟨hclosed, hfailed, hne⟩ := mem_waitEnds_ne ha
    exact (hs.withArq (inSend_of_awaitingAck harq) (by simp [harq]) hclosed hfailed fun h => absurd h hne).of_guarded_eq rfl
  | opened u n answers harq hd =>
    exact (Invariant.resetSession (s := s.withChan { s.chan with isOpen := true, openAnswers := answers }) hd rfl).of_guarded_eq rfl
  | openFailed => exact hs.of_guarded_eq rfl
  | closed => exact (Invariant.dropSession (s := closeChannel s) rfl).of_guarded_eq rfl
  | closedAgain harq =>
    have hopen : s.chan.isOpen = false := by simpa [harq] using hs.handle
    exact (Invariant.dropSession hopen).of_guarded_eq rfl
  | sent i type payload q host hidle hd =>
    simp only [sendDomain, decide_eq_true_eq] at hd
    exact (hs.accepted hidle hd.2).of_guarded_eq rfl
  | queued => exact hs.of_guarded_eq rfl
  | transmitted n f answers harq hn => exact (hs.attempted harq hn).of_guarded_eq rfl
  | writeFailed n f sent answers harq hn =>
    exact ((hs.attempted harq hn).failWith .channelError (by simp) (by simp)).of_guarded_eq rfl
  | timedOut rest harq =>
    have hin := inSend_of_awaitingAck harq
    have hzero : Invariant ((s.withSeqCtr (some 0#3)).withArq .timedOut) :=
      (hs.withSeqCtr_zero hin).withArq hin (by simp [harq]) (by simp) (by simp) (by simp)
    exact hzero.of_guarded_eq rfl
  | readFailed rest harq => exact (hs.failWith .channelError (by simp [harq]) (by simp)).of_guarded_eq rfl
  | retried n harq hn hlt =>
    have hsend : s.arqState ≠ .sending := by obtain h | h := harq <;> simp [h]
    exact hs.withArq (inSend_of_attemptFailed harq) hsend (by simp) (by simp) fun _ => ⟨n, hn, hlt⟩
  | exhausted n harq =>
    exact hs.failWith .retryExhausted (not_closed_of_inSend (inSend_of_attemptFailed harq)) (by simp)
  | done harq =>
    have hin : InSend s := by simp [InSend, harq, hostHasTurn]
    have hidle : Invariant (s.withArq .idle) := hs.withArq hin (by simp [harq]) (by simp) (by simp) (by simp)
    exact hidle.of_guarded_eq rfl
  | chanRead => exact hs.of_guarded_eq rfl
  | chanWritten => exact hs.of_guarded_eq rfl

/-- The host's own doing does not touch what the invariant speaks of. -/
theorem Stay.invariant {s t : State} (h : Stay s t) (hs : Invariant s) : Invariant t := by
  cases h with
  | own => exact hs.of_guarded_eq rfl
  | event => exact hs.of_guarded_eq rfl
  | refused => exact hs.of_guarded_eq rfl

/-- The host's side is no part of the invariant. -/
theorem Invariant.withHost {s : State} (hs : Invariant s) (host : HostSide) : Invariant (s.withHost host) := hs.of_guarded_eq rfl

/-- Every step keeps the invariant, whether it runs an instruction or the host acts by itself. -/
theorem step_invariant {s t : State} (hs : Invariant s) (h : step s = .next t) : Invariant t := by
  obtain ⟨i, host, -, heffect⟩ | hstay := step_cases h
  · exact heffect.invariant (hs.withHost host)
  · exact hstay.invariant hs

end Sys2Proof.Machine

/-- Settles O49: a step is the effect of an instruction or the host's own doing, and both keep the invariant. -/
theorem Sys2Proof.stepKeepsTheInvariant : Obligations.StepKeepsTheInvariant :=
  fun _ _ hs h => Sys2Proof.Machine.step_invariant hs h

/-- Settles O48: power-on is `Closed` with the registers empty and the handle not held. -/
theorem Sys2Proof.powerOnState : Obligations.PowerOnState :=
  ⟨rfl, rfl, rfl, rfl, rfl, rfl, rfl, rfl, rfl, Sys2Proof.Machine.Invariant.of_closed rfl ⟨rfl, rfl, rfl, rfl, rfl, rfl⟩ rfl⟩
end

section
/-! Proofs about which register a rule can find empty (10_state R25), and that the invariant of R26 rules each of them out. -/

namespace Sys2Proof.Machine

/-! ## Where an instruction can fault -/

/-- The states in which a rule can read a register that holds no value, by the rule that reads. -/
inductive ReadsEmpty (s : State) : Prop where
  | counter (harq : s.arqState = .idle) (h : s.seqCtr = none)
  | session (harq : s.arqState = .idle) (h : s.session = none)
  | reason (harq : s.arqState = .failed) (h : s.failReason.bind FailReason.error = none)
  | frame (harq : s.arqState = .sending) (h : s.attempts = none ∨ s.txFrame = none)
  | number (harq : s.arqState = .awaitingAck) (h : s.txSeq = none)
  | attempts (harq : s.arqState = .retrying ∨ s.arqState = .timedOut) (h : s.attempts = none)

section
variable {s : State} {f : Fault}

theorem readReg_fault {α : Type} {r : Register} {value : Option α} {use : α → Result} (h : readReg r value use = .fault f) :
    value = none ∨ ∃ a, value = some a ∧ use a = .fault f := by
  cases value with
  | none => exact .inl rfl
  | some a => exact .inr ⟨a, rfl, h⟩

theorem answer_ne_fault {r : Reply} : answer s r ≠ .fault f := by simp [answer]

theorem refuse_ne_fault : refuse s ≠ .fault f := answer_ne_fault

theorem noTransition_ne_fault : noTransition ≠ .fault f := by simp [noTransition]

theorem answerBytes_ne_fault {e : Except Err (List Byte)} : answerBytes s e ≠ .fault f := by
  cases e <;> exact answer_ne_fault

theorem answerPacket_ne_fault {e : Except Err Packet} : answerPacket s e ≠ .fault f := by
  cases e <;> exact answer_ne_fault

/-! ### The receive step -/

theorem frameVerdict_noTxSeq {cfg : Config} {q : Option Seq} {frame : List Byte} (h : frameVerdict cfg q frame = .noTxSeq) :
    q = none := by
  unfold frameVerdict at h
  split at h
  · cases h
  · split at h
    · rfl
    · split at h <;> cases h

theorem waitVerdict_noTxSeq {b : Byte} (h : waitVerdict b s = .noTxSeq) : s.txSeq = none := by
  unfold waitVerdict at h
  split at h
  · cases h
  · exact frameVerdict_noTxSeq h

theorem waitByte_fault {b : Byte} (h : waitByte b s = .fault f) : s.txSeq = none := by
  unfold waitByte at h
  split at h
  · cases hv : waitVerdict b s with
    | noTxSeq => exact waitVerdict_noTxSeq hv
    | _ => simp [hv, applyVerdict] at h
  · cases h

/-- Reading on in a wait latches no number. -/
theorem waitByte_txSeq {b : Byte} {t : State} (h : waitByte b s = .next t) : t.txSeq = s.txSeq := by
  obtain ⟨buf, -, rfl | rfl | rfl⟩ := waitByte_next h <;> rfl

theorem feedWait_fault {bytes : List Byte} (h : feedWait bytes s = .fault f) : s.txSeq = none := by
  induction bytes generalizing s with
  | nil => cases h
  | cons b bs ih =>
    unfold feedWait at h
    split at h
    · split at h
      · rename_i s' hs'
        exact waitByte_txSeq hs' ▸ ih h
      · rename_i g hg
        exact waitByte_fault hg
      · cases h
    · cases h

theorem receiveBytes_fault {bytes : List Byte} {r : List (List Byte) → Reply} (h : receiveBytes bytes r s = .fault f) :
    ReadsEmpty s := by
  unfold receiveBytes at h
  split at h
  · rename_i harq
    exact .number harq (feedWait_fault h)
  · split at h
    · exact absurd h answer_ne_fault
    · exact absurd h refuse_ne_fault

theorem onReceivedByte_fault {wanted : Verdict → Bool} (h : onReceivedByte wanted s = .fault f) : ReadsEmpty s := by
  unfold onReceivedByte at h
  split at h
  · rename_i harq
    split at h
    · rename_i b rest hrx
      split at h
      · exact .number harq (waitByte_fault (s := s.withRxIn rest) h)
      · exact absurd h noTransition_ne_fault
    · exact absurd h noTransition_ne_fault
  · exact absurd h noTransition_ne_fault

/-! ### Sending -/

theorem raiseStored_fault (h : raiseStored s = .fault f) : s.failReason.bind FailReason.error = none := by
  obtain hnone | ⟨e, -, h⟩ := readReg_fault h
  · exact hnone
  · exact absurd h answer_ne_fault

theorem sendPacket_fault {type : Nat} {payload : List Byte} (h : sendPacket type payload s = .fault f) :
    (s.arqState = .idle ∧ s.seqCtr = none) ∨ (s.arqState = .failed ∧ s.failReason.bind FailReason.error = none) := by
  unfold sendPacket at h
  split at h <;> rename_i harq
  · split at h
    · obtain hnone | ⟨q, -, h⟩ := readReg_fault h
      · exact .inl ⟨harq, hnone⟩
      · cases h
    · exact absurd h refuse_ne_fault
  · exact .inr ⟨harq, raiseStored_fault h⟩
  all_goals exact absurd h refuse_ne_fault

theorem startTasks_fault {tasks : State → Result} (h : startTasks tasks s = .fault f)
    (htasks : s.arqState = .idle → tasks s = .fault f → ReadsEmpty s) : ReadsEmpty s := by
  unfold startTasks at h
  split at h <;> rename_i harq
  · exact htasks harq h
  · exact .reason harq (raiseStored_fault h)
  all_goals exact absurd h refuse_ne_fault

theorem sendPacket_readsEmpty {type : Nat} {payload : List Byte} (h : sendPacket type payload s = .fault f) : ReadsEmpty s := by
  obtain ⟨harq, hnone⟩ | ⟨harq, hnone⟩ := sendPacket_fault h
  · exact .counter harq hnone
  · exact .reason harq hnone

/-! ### The transitions -/

theorem tTransmit_fault (h : execTTransmit s = .fault f) : ReadsEmpty s := by
  unfold execTTransmit at h
  split at h
  · rename_i harq
    obtain hnone | ⟨n, -, h⟩ := readReg_fault h
    · exact .frame harq (.inl hnone)
    obtain hnone | ⟨frame, -, h⟩ := readReg_fault h
    · exact .frame harq (.inr hnone)
    simp only at h
    split at h <;> cases h
  · exact absurd h noTransition_ne_fault

theorem tRxByte_fault (h : execTRxByte s = .fault f) : ReadsEmpty s := by
  unfold execTRxByte at h
  split at h
  · split at h
    · cases h
    · cases h
    · exact onReceivedByte_fault h
    · exact absurd h noTransition_ne_fault
    · exact absurd h noTransition_ne_fault
  · exact absurd h noTransition_ne_fault

theorem afterFailedAttempt_fault {act : Nat → Result} (h : afterFailedAttempt act s = .fault f)
    (hact : ∀ n, act n ≠ .fault f) : ReadsEmpty s := by
  unfold afterFailedAttempt at h
  split at h
  · rename_i harq
    obtain hnone | ⟨n, -, h⟩ := readReg_fault h
    · exact .attempts harq hnone
    · exact absurd h (hact n)
  · exact absurd h noTransition_ne_fault

end

/-- Every fault of an instruction is the read of an empty register. -/
theorem exec_fault {i : Instr} {s : State} {f : Fault} (h : exec i s = .fault f) : ReadsEmpty s := by
  cases i with
  | marker | esc | escMarker | escEsc | literal | illegalEscape => exact receiveBytes_fault h
  | frame =>
    unfold exec execFrame receiveFrame at h
    exact receiveBytes_fault h
  | rawPacket => exact absurd h answerPacket_ne_fault
  | typeInit | typeStart | typeData | typeStopData | typeReserved => exact absurd h answer_ne_fault
  | fcAppend bytes =>
    simp only [exec, execFcAppend] at h
    split at h <;> exact absurd h answer_ne_fault
  | fcDecode | fcEncode => exact absurd h answer_ne_fault
  | fcDecodeEscapes => exact absurd h answerBytes_ne_fault
  | pkCrc16 | pkHdrCsum | pkHdrUnpack => exact absurd h answer_ne_fault
  | pkHdrPack =>
    simp only [exec, execPkHdrPack] at h
    split at h <;> exact absurd h answer_ne_fault
  | pkBuild =>
    simp only [exec, execPkBuild] at h
    split at h <;> exact absurd h answer_ne_fault
  | pkDecode =>
    simp only [exec, execPkDecode] at h
    split at h
    · exact absurd h answerPacket_ne_fault
    · exact absurd h answer_ne_fault
  | pkAckAccepts =>
    simp only [exec, execPkAckAccepts] at h
    split at h <;> exact absurd h answer_ne_fault
  | rtOpen =>
    simp only [exec, execRtOpen] at h
    split at h
    · split at h <;> exact absurd h answer_ne_fault
    · exact absurd h answer_ne_fault
  | rtSend => exact sendPacket_readsEmpty h
  | rtClose =>
    simp only [exec, execRtClose] at h
    split at h <;> exact absurd h answer_ne_fault
  | tTransmit => exact tTransmit_fault h
  | tRxByte => exact tRxByte_fault h
  | tFrameAck =>
    unfold exec execTFrameAck at h
    exact onReceivedByte_fault h
  | tFrameNak =>
    unfold exec execTFrameNak at h
    exact onReceivedByte_fault h
  | tFrameErr => exact onReceivedByte_fault h
  | tTimeout =>
    simp only [exec, execTTimeout] at h
    split at h
    · split at h <;> cases h
    · cases h
  | tRetry =>
    refine afterFailedAttempt_fault h fun n => ?_
    split <;> simp [noTransition]
  | tExhaust =>
    refine afterFailedAttempt_fault h fun n => ?_
    split <;> simp [noTransition]
  | tDone =>
    simp only [exec, execTDone] at h
    split at h <;> cases h
  | tChanErr =>
    simp only [exec, execTChanErr] at h
    split at h
    · split at h <;> cases h
    · cases h
  | sendInitPacket => exact sendPacket_readsEmpty h
  | sendStartDfu =>
    unfold exec execSendStartDfu at h
    refine startTasks_fault h fun harq h => ?_
    obtain ⟨-, hnone⟩ | ⟨hfailed, -⟩ := sendPacket_fault h
    · exact .counter harq hnone
    · cases harq.symm.trans hfailed
  | sendFirmware =>
    unfold exec execSendFirmware at h
    refine startTasks_fault h fun harq h => ?_
    obtain hnone | ⟨c, -, h⟩ := readReg_fault h
    · exact .session harq hnone
    · cases h
  | sendValidateFirmware =>
    unfold exec execSendValidateFirmware at h
    exact startTasks_fault h fun _ hnext => by cases hnext
  | sendActivateFirmware =>
    unfold exec execSendActivateFirmware at h
    exact startTasks_fault h fun _ hnext => by cases hnext
  | chanRead =>
    simp only [exec, execChanRead] at h
    split at h <;> exact absurd h answer_ne_fault
  | chanWrite =>
    simp only [exec, execChanWrite] at h
    split at h <;> exact absurd h answer_ne_fault

/-- A step that faults runs an instruction that faults, from the state at hand, the host's side apart. -/
theorem step_fault {s : State} {f : Fault} (h : step s = .fault f) : ∃ host, ReadsEmpty (s.withHost host) := by
  unfold step at h
  split at h
  · rename_i i s' hs
    obtain ⟨host, rfl⟩ := select_run hs
    exact ⟨host, exec_fault h⟩
  · cases h

/-- R26 and R25: the invariant gives a value to every register that a rule reads in the state at hand. -/
theorem Invariant.not_readsEmpty {s : State} (hs : Invariant s) : ¬ ReadsEmpty s := by
  rintro (⟨harq, hnone⟩ | ⟨harq, hnone⟩ | ⟨harq, hnone⟩ | ⟨harq, hnone⟩ | ⟨harq, hnone⟩ | ⟨harq, hnone⟩)
  case counter =>
    obtain ⟨⟨q, hq⟩, -⟩ := hs.inSession (by simp [harq])
    simp [hq] at hnone
  case session =>
    obtain ⟨-, c, hc, -⟩ := hs.inSession (by simp [harq])
    simp [hc] at hnone
  case reason =>
    obtain ⟨r, hr, hiff⟩ := hs.failedHasReason (by simp [harq])
    have hne : r ≠ .noReason := hiff.mpr harq
    cases r <;> simp [hr, FailReason.error] at hnone hne
  case frame =>
    obtain ⟨n, hn, -⟩ := hs.attemptsBound (by simp [harq])
    obtain ⟨type, payload, q, -, -, hf, -⟩ := hs.packetInHand (by simp [InSend, harq, hostHasTurn])
    simp [hn, hf] at hnone
  case number =>
    obtain ⟨type, payload, q, -, hq, -⟩ := hs.packetInHand (by simp [InSend, harq, hostHasTurn])
    simp [hq] at hnone
  case attempts =>
    obtain ⟨n, hn, -⟩ := hs.attemptsBound (by obtain h | h := harq <;> simp [h])
    simp [hn] at hnone

end Sys2Proof.Machine

/-- Settles O50: a fault is the read of an empty register, which the invariant excludes. -/
theorem Sys2Proof.stepReadsNoEmptyRegister : Obligations.StepReadsNoEmptyRegister := by
  intro s hs r h
  obtain ⟨host, hempty⟩ := Sys2Proof.Machine.step_fault h
  have hhost : Sys2Proof.Machine.Invariant (s.withHost host) := hs.withHost host
  exact hhost.not_readsEmpty hempty
end

section
/-! Proofs about who writes `seq_ctr`, `tx_frame`, `tx_seq` and the events (10_state R11, R14, R15, R17), each read off `Effect`. -/

namespace Sys2Proof.Machine

open Sys2Proof.Spec

/-- R17: the events of `s` are kept in `t`, with at most one more at the end. -/
def EventsGrow (s t : State) : Prop := t.events = s.events ∨ ∃ e, t.events = s.events ++ [e]

/-- The operations that can accept a packet construct one (R11). -/
theorem constructsPacket_of_sends {i : Instr} {type : Nat} {payload : List Byte} {p : Prop}
    (h : i = .rtSend type payload ∧ p ∨ (∃ b, i = .sendInitPacket b ∧ p) ∨ ∃ m sd bl app, i = .sendStartDfu m sd bl app) :
    constructsPacket i = true := by
  obtain ⟨rfl, -⟩ | ⟨b, rfl, -⟩ | ⟨m, sd, bl, app, rfl⟩ := h <;> rfl

namespace Effect

variable {i : Instr} {s t : State}

/-- R11: the four places that write the counter. -/
theorem seqCtr_cases (h : Effect s i t) :
    t.seqCtr = s.seqCtr ∨
    (t.seqCtr = some 0#3 ∧ (i = .tTimeout ∨ ∃ a n, i = .rtOpen a n)) ∨
    (constructsPacket i = true ∧ s.arqState = .idle ∧ ∃ q, s.seqCtr = some q ∧ t.seqCtr = some (q + 1#3) ∧ t.txSeq = some q) ∨
    (i = .rtClose ∧ t.seqCtr = none) := by
  cases h with
  | timedOut => exact .inr (.inl ⟨rfl, .inl rfl⟩)
  | opened u n => exact .inr (.inl ⟨rfl, .inr ⟨u, n, rfl⟩⟩)
  | sent i type payload q host harq hd hq hi =>
    exact .inr (.inr (.inl ⟨constructsPacket_of_sends hi, harq, q, hq, rfl, rfl⟩))
  | closed => exact .inr (.inr (.inr ⟨rfl, rfl⟩))
  | closedAgain => exact .inr (.inr (.inr ⟨rfl, rfl⟩))
  | _ => exact .inl rfl

/-- R14, R15: acceptance and RT.CLOSE write the packet in hand, and write it whole. -/
theorem packet_cases (h : Effect s i t) :
    (t.txFrame = s.txFrame ∧ t.txSeq = s.txSeq) ∨
    (constructsPacket i = true ∧ s.arqState = .idle ∧ t.arqState = .sending ∧ t.txSeq = s.seqCtr) ∨
    (i = .rtClose ∧ t.txFrame = none ∧ t.txSeq = none) := by
  cases h with
  | sent i type payload q host harq hd hq hi =>
    exact .inr (.inl ⟨constructsPacket_of_sends hi, harq, rfl, hq.symm⟩)
  | closed => exact .inr (.inr ⟨rfl, rfl, rfl⟩)
  | closedAgain => exact .inr (.inr ⟨rfl, rfl, rfl⟩)
  | _ => exact .inl ⟨rfl, rfl⟩

/-- R17, R147: a timeout emits the one event an instruction can emit. -/
theorem eventsGrow (h : Effect s i t) : EventsGrow s t := by
  cases h with
  | timedOut => exact .inr ⟨_, rfl⟩
  | _ => exact .inl rfl

end Effect

/-- R17, R176: of what the host does by itself, a progress report emits one event. -/
theorem Stay.eventsGrow {s t : State} (h : Stay s t) : EventsGrow s t := by
  cases h with
  | own => exact .inl rfl
  | event => exact .inr ⟨_, rfl⟩
  | refused => exact .inl rfl

end Sys2Proof.Machine

/-- Settles O57: of the effects, a timeout, an open, an acceptance and a close write the counter, each as said. -/
theorem Sys2Proof.counterChangesOnlyWhereStated : Obligations.CounterChangesOnlyWhereStated :=
  fun _ _ _ h => (Sys2Proof.Machine.exec_effect h).seqCtr_cases

/-- Settles O58: of the effects, an acceptance and a close write the packet in hand. -/
theorem Sys2Proof.packetIsImmutable : Obligations.PacketIsImmutable :=
  fun _ _ _ h => (Sys2Proof.Machine.exec_effect h).packet_cases

/-- Settles O59: a step is the effect of an instruction or the host's own doing; either emits at most one event. -/
theorem Sys2Proof.eventsOnlyGrow : Obligations.EventsOnlyGrow := by
  intro s t h
  obtain ⟨i, host, -, heffect⟩ | hstay := Sys2Proof.Machine.step_cases h
  · exact heffect.eventsGrow
  · exact hstay.eventsGrow
end

section
/-! Proofs about the channel port (20_memory R42, R43; 42 R142, R153): what a call answers when the script says it, and who appends to
the transmit stream, read off `Effect`. -/

namespace Sys2Proof.Machine

/-! ## The answers of the channel's calls -/

section
variable {s : State}

theorem readChannel_byte {b : Byte} {rest : List RxInput} (h : s.chan.rxIn = .byte b :: rest) :
    readChannel s = (.byte b, s.withRxIn rest) := by
  simp [readChannel, h]

theorem readChannel_nothing {rest : List RxInput} (h : s.chan.rxIn = .nothing :: rest) :
    readChannel s = (.nothing, s.withRxIn rest) := by
  simp [readChannel, h]

theorem readChannel_error {rest : List RxInput} (h : s.chan.rxIn = .error :: rest) :
    readChannel s = (.error, s.withRxIn rest) := by
  simp [readChannel, h]

/-- A timer expiry is not the channel's to take (assumption 30). -/
theorem readChannel_timeout {rest : List RxInput} (h : s.chan.rxIn = .timeout :: rest) : readChannel s = (.nothing, s) := by
  simp [readChannel, h]

theorem writeChannel_ok {rest : List WriteAnswer} (bs : List Byte) (h : s.chan.writeAnswers = .ok :: rest) :
    writeChannel bs s = (true, s.withChan { s.chan with tx := s.chan.tx ++ bs, writeAnswers := rest }) := by
  simp [writeChannel, h]

theorem writeChannel_error {n : Nat} {rest : List WriteAnswer} (bs : List Byte) (h : s.chan.writeAnswers = .error n :: rest) :
    writeChannel bs s = (false, s.withChan { s.chan with tx := s.chan.tx ++ bs.take n, writeAnswers := rest }) := by
  simp [writeChannel, h]

/-- R42: the reply that ChanRead gives for an answer of the channel (`exec_chanRead`). -/
def ReadAnswer.reply : ReadAnswer → Reply
  | .byte b => .readByte b
  | .nothing => .readNone
  | .error => .readError

theorem exec_chanRead {a : ReadAnswer} {t : State} (h : readChannel s = (a, t)) :
    exec .chanRead s = .next (t.withReply (some a.reply)) := by
  cases a <;> simp [exec, execChanRead, h, answer, ReadAnswer.reply]

/-- R43: ChanWrite replies `ok` or `error` as the channel answers. -/
theorem exec_chanWrite {bs : List Byte} {ok : Bool} {t : State} (h : writeChannel bs s = (ok, t)) :
    exec (.chanWrite bs) s = .next (t.withReply (some (if ok then .writeOk else .writeError))) := by
  cases ok <;> simp [exec, execChanWrite, h, answer]

end

/-! ## Who writes to the channel -/

/-- R43, R142: besides ChanWrite, an attempt is the one effect that appends to the transmit stream. An attempt whose write succeeds
hands over the frame; one whose write fails hands over a prefix and does not wait. -/
theorem Effect.tx_cases {i : Instr} {s t : State} (h : Effect s i t) (hi : ∀ bs, i ≠ .chanWrite bs) :
    t.chan.tx = s.chan.tx ∨
    (i = .tTransmit ∧ ∃ f sent, s.txFrame = some f ∧ sent <+: f ∧ t.chan.tx = s.chan.tx ++ sent ∧
      (t.arqState = .awaitingAck → sent = f)) := by
  cases h with
  | transmitted n f answers harq hn hf => exact .inr ⟨rfl, f, f, hf, List.prefix_refl f, rfl, fun _ => rfl⟩
  | writeFailed n f sent answers harq hn hf hsent =>
    refine .inr ⟨rfl, f, sent, hf, hsent, rfl, fun hwait => ?_⟩
    cases hwait
  | chanWritten bs => exact absurd rfl (hi bs)
  | _ => exact .inl rfl

end Sys2Proof.Machine

open Sys2Proof.Machine

/-- Settles O56: of the effects other than ChanWrite's, only the two of T.TRANSMIT append to the stream. -/
theorem Sys2Proof.onlyTransmitWrites : Obligations.OnlyTransmitWrites :=
  fun _ _ _ hi h => (exec_effect h).tx_cases hi

/-- Settles O39: each scripted answer of the channel is what ChanRead or ChanWrite passes on. -/
theorem Sys2Proof.channelPrimitivesAnswer : Obligations.ChannelPrimitivesAnswer := by
  intro bs s
  refine ⟨fun b rest h => ?readByte, fun rest h => ?readNone, fun rest h => ?readError, fun rest h => ?expiry, fun rest h => ?writeOk,
    fun n rest h => ?writeError⟩
  case readByte => exact exec_chanRead (readChannel_byte h)
  case readNone => exact exec_chanRead (readChannel_nothing h)
  case readError => exact exec_chanRead (readChannel_error h)
  case expiry => exact exec_chanRead (readChannel_timeout h)
  case writeOk => exact exec_chanWrite (writeChannel_ok bs h)
  case writeError => exact exec_chanWrite (writeChannel_error bs h)
end

section
/-! Proofs about the words of 30_encoding (R60 to R75): a header's bytes and its fields determine each other, a frame and its content
do, and so decoder and encoder are inverse on every format. -/

namespace Sys2Proof.Machine

/-! ## The header's bytes and its fields (30 R63 to R65, R74) -/

theorem headerByte1_type (type : BitVec 4) (length : BitVec 12) : (headerByte1 type length).extractLsb' 0 4 = type := by
  apply BitVec.eq_of_toNat_eq
  rw [BitVec.extractLsb'_toNat, headerByte1_toNat, Nat.shiftRight_zero]
  omega

/-- The length field, split over bytes 1 and 2, read back. -/
theorem headerBytes_length (type : BitVec 4) (length : BitVec 12) :
    ((headerByte2 length ++ (headerByte1 type length).extractLsb' 4 4).cast (by decide) : BitVec 12) = length := by
  apply BitVec.eq_of_toNat_eq
  rw [lengthField_toNat, headerByte1_toNat, headerByte2_toNat]
  omega

/-- Header byte 1 from its own type bits and the length they stand beside. -/
theorem headerByte1_of_fields (h1 h2 : Byte) :
    headerByte1 (h1.extractLsb' 0 4) ((h2 ++ h1.extractLsb' 4 4).cast (by decide)) = h1 := by
  apply BitVec.eq_of_toNat_eq
  rw [headerByte1_toNat, lengthField_toNat, BitVec.extractLsb'_toNat, Nat.shiftRight_zero]
  omega

theorem headerByte2_of_fields (h1 h2 : Byte) : headerByte2 ((h2 ++ h1.extractLsb' 4 4).cast (by decide)) = h2 := by
  apply BitVec.eq_of_toNat_eq
  rw [headerByte2_toNat, lengthField_toNat]
  omega

/-- R123 after R63 to R65: unpacking the bytes of any fields gives the fields. -/
theorem hdrUnpack_headerBytes (h : Header) :
    hdrUnpack (headerByte0 h.seq h.ack h.dip h.rp) (headerByte1 h.type h.length) (headerByte2 h.length) h.hcs = h := by
  obtain ⟨hseq, hack, hdip, hrp, -⟩ := headerByte0_fields h.seq h.ack h.dip h.rp
  simp only [hdrUnpack, hseq, hack, hdip, hrp, headerByte1_type, headerBytes_length]

/-- The other direction: the fields of any four bytes lie in just these bytes. -/
theorem headerBytes_hdrUnpack (b0 b1 b2 b3 : Byte) : headerBytes (hdrUnpack b0 b1 b2 b3) = [b0, b1, b2, b3] := by
  simp only [headerBytes, hdrUnpack, headerByte0_of_fields, headerByte1_of_fields, headerByte2_of_fields]

/-- R70, R75: a received header word replies its fields, the type among them as it came. -/
theorem receiveHeader_next (h : Header) (s : State) : receiveHeader h s = .next (s.withReply (some (.header h))) := by
  rw [receiveHeader_eq, hdrUnpack_headerBytes, answer]

/-! ## A frame and its content (30 R60) -/

@[simp] theorem frameDomain_delimit (content : List Byte) : frameDomain (delimit content) = true := by
  simp only [frameDomain, decide_eq_true_eq]
  exact ⟨by simp [delimit], rfl, List.getLast?_concat⟩

/-- A frame in the domain of PK.DECODE is its content between two markers. -/
theorem delimit_frameContent {f : List Byte} (h : frameDomain f = true) : delimit (frameContent f) = f := by
  simp only [frameDomain, decide_eq_true_eq] at h
  obtain ⟨hlen, hhead, hlast⟩ := h
  obtain ⟨rest, rfl⟩ := List.head?_eq_some_iff.mp hhead
  have hrest : rest ≠ [] := by rintro rfl; simp at hlen
  obtain ⟨content, rfl⟩ := List.getLast?_eq_some_iff.mp ((List.getLast?_cons_of_ne_nil hrest).symm.trans hlast)
  exact congrArg delimit (frameContent_delimit content)

end Sys2Proof.Machine

namespace Sys2Proof

open Sys2Proof.Machine

/-! ## Words of each format -/

theorem decode_headerBytes (h : Header) : decode .headerWord (headerBytes h) = .ok (headerInstr h) :=
  congrArg (fun h => Except.ok (headerInstr h)) (hdrUnpack_headerBytes h)

/-- R67: the operation of a header keeps every field, so its word is the header's bytes. -/
theorem encode_headerInstr (h : Header) : encode (headerInstr h) = some (.headerWord, headerBytes h) := by
  obtain ⟨seq, ack, dip, rp, type, length, hcs⟩ := h
  unfold headerInstr
  split_ifs with h1 h3 h4 h5
  · subst h1; rfl
  · subst h3; rfl
  · subst h4; rfl
  · subst h5; rfl
  · rfl

/-- R70: a type that the spec does not name is a reserved one. -/
theorem headerInstr_reserved {h : Header} (ht : namedType h.type = false) :
    headerInstr h = .typeReserved h.seq h.ack h.dip h.rp h.type h.length h.hcs := by
  simp only [namedType, Bool.or_eq_false_iff, beq_eq_false_iff_ne] at ht
  obtain ⟨⟨⟨h1, h3⟩, h4⟩, h5⟩ := ht
  rw [headerInstr, if_neg h1, if_neg h3, if_neg h4, if_neg h5]

theorem decodeWireByte_literal {b : Byte} (hmarker : b ≠ markerByte) (hesc : b ≠ escByte) : decodeWireByte b = .literal b := by
  rw [decodeWireByte, if_neg hmarker, if_neg hesc]

theorem encode_decodeWireByte (b : Byte) : encode (decodeWireByte b) = some (.wireByte, [b]) := by
  unfold decodeWireByte
  split_ifs with hmarker hesc
  · subst hmarker; rfl
  · subst hesc; rfl
  · rfl

theorem decodePair_illegal {x : Byte} (hmarker : x ≠ escMarkerByte) (hesc : x ≠ escEscByte) :
    decodePair escByte x = .ok (.illegalEscape x) := by
  rw [decodePair, if_neg (not_not.mpr rfl), if_neg hmarker, if_neg hesc]

theorem encode_of_decodePair {b x : Byte} {i : Instr} (h : decodePair b x = .ok i) : encode i = some (.wireBytePair, [b, x]) := by
  unfold decodePair at h
  split_ifs at h with hb hmarker hesc
  all_goals rw [not_not] at hb; subst hb
  · subst hmarker; cases h; rfl
  · subst hesc; cases h; rfl
  · cases h; rfl

theorem decodeWireFrame_delimit {content : List Byte} (h : markerByte ∉ content) :
    decodeWireFrame (delimit content) = .ok (.frame content) := by
  simp [decodeWireFrame, h]

theorem encode_of_decodeWireFrame {f : List Byte} {i : Instr} (h : decodeWireFrame f = .ok i) :
    encode i = some (.wireFrame, f) := by
  unfold decodeWireFrame at h
  split_ifs at h with hdomain hinner
  cases h
  have hf : delimit (frameContent f) = f := delimit_frameContent (by simpa using hdomain)
  rw [encode, hf]

/-! ## Decoder and encoder -/

/-- An operation that has bits is what the decoder reads from its word, the named ones having none (D19). -/
theorem decode_encode {i : Instr} {fmt : Format} {bytes : List Byte} (hwf : i.wf = true) (h : encode i = some (fmt, bytes)) :
    decode fmt bytes = .ok i := by
  cases i with
  | marker => cases h; rfl
  | esc => cases h; rfl
  | escMarker => cases h; rfl
  | escEsc => cases h; rfl
  | literal b =>
    cases h
    simp only [Instr.wf, Bool.and_eq_true, bne_iff_ne] at hwf
    exact congrArg Except.ok (decodeWireByte_literal hwf.1 hwf.2)
  | illegalEscape x =>
    cases h
    simp only [Instr.wf, Bool.and_eq_true, bne_iff_ne] at hwf
    exact decodePair_illegal hwf.1 hwf.2
  | frame content =>
    cases h
    simp only [Instr.wf, frameContentWf, Bool.and_eq_true, decide_eq_true_eq] at hwf
    exact decodeWireFrame_delimit hwf.1
  | rawPacket u => cases h; rfl
  | typeInit => cases h; exact decode_headerBytes _
  | typeStart => cases h; exact decode_headerBytes _
  | typeData => cases h; exact decode_headerBytes _
  | typeStopData => cases h; exact decode_headerBytes _
  | typeReserved seq ack dip rp type length hcs =>
    cases h
    have ht : namedType type = false := by simpa [Instr.wf] using hwf
    exact (decode_headerBytes _).trans (congrArg Except.ok (headerInstr_reserved ht))
  | _ => cases h

/-- What the decoder reads determines the word it was read from. -/
theorem encode_decode {i : Instr} {fmt : Format} {bytes : List Byte} (h : decode fmt bytes = .ok i) :
    encode i = some (fmt, bytes) := by
  match fmt, bytes, h with
  | .wireByte, [b], h => cases h; exact encode_decodeWireByte b
  | .wireBytePair, [b, x], h => exact encode_of_decodePair h
  | .headerWord, [b0, b1, b2, b3], h =>
    cases h
    rw [encode_headerInstr, headerBytes_hdrUnpack]
  | .wireFrame, f, h => exact encode_of_decodeWireFrame h
  | .rawPacket, u, h => cases h; rfl

end Sys2Proof

open Sys2Proof.Machine

/-- Settles O45: by the operation; a header's fields, a frame's content and the operand bytes are read back from its word. -/
theorem Sys2Proof.decodeEncodeAgree : Obligations.DecodeEncodeAgree :=
  fun _ _ _ hwf h => decode_encode hwf h

/-- Settles O46: by the format; its decoder keeps every bit of the word. -/
theorem Sys2Proof.encodeDecodeAgree : Obligations.EncodeDecodeAgree :=
  fun _ _ _ h => encode_decode h

/-- Settles O47: each word of the table is decoded by evaluation. -/
theorem Sys2Proof.sampleWordsDecode : Obligations.SampleWordsDecode := by
  unfold Obligations.SampleWordsDecode
  decide

/-- Settles O12: a header word is unpacked, and unpacking its bytes gives its fields. -/
theorem Sys2Proof.headerWordsPassUnchanged : Obligations.HeaderWordsPassUnchanged := by
  intro seq ack dip rp type length hcs s
  exact ⟨receiveHeader_next _ s, receiveHeader_next _ s, receiveHeader_next _ s, receiveHeader_next _ s, receiveHeader_next _ s⟩
end

section
/-! Proofs about received bytes and wire forms outside a wait (30_encoding R60, R62, R68, R70): the Frame Codec's loop as the relation
`Cuts`, the buffer with and without an open frame, and what each class then does. -/

namespace Sys2Proof.Machine

open Sys2Proof.Spec

/-! ## Cutting frames (40 R101) -/

/-- A buffer whose first marker, if any, is its last holds at most one. -/
theorem count_marker_le_one {buf : List Byte}
    (h : ∀ pre afterOpen, splitMarker buf = some (pre, afterOpen) → splitMarker afterOpen = none) : buf.count markerByte ≤ 1 := by
  cases hs : splitMarker buf with
  | none => simp [List.count_eq_zero.mpr (splitMarker_eq_none.mp hs)]
  | some p =>
    obtain ⟨pre, afterOpen⟩ := p
    obtain ⟨rfl, hpre⟩ := splitMarker_eq_some hs
    have hafter : markerByte ∉ afterOpen := splitMarker_eq_none.mp (h _ _ hs)
    simp [List.count_eq_zero.mpr hpre, List.count_eq_zero.mpr hafter]

/-- FC.DECODE runs R101's loop to its end. -/
theorem cuts_extractFrames (buf : List Byte) : Cuts buf (extractFrames buf).1 (extractFrames buf).2 := by
  induction hn : buf.length using Nat.strongRecOn generalizing buf with
  | ind n ih =>
    obtain h | ⟨pre, content, rest, hpre, hcontent, rfl⟩ := extractFrames_cases buf
    · rw [extractFrames_of_no_frame h]
      exact .stop buf (count_marker_le_one h)
    · have hlen : rest.length < n := by rw [← hn]; simp; omega
      rw [extractFrames_turn rest hpre hcontent]
      exact .turn pre content rest _ _ hpre hcontent (ih rest.length hlen rest rfl)

/-- Every frame that the loop cuts is a content between two markers. -/
theorem delimit_of_mem_cuts {buf stay f : List Byte} {fs : List (List Byte)} (h : Cuts buf fs stay) (hf : f ∈ fs) :
    ∃ content, f = delimit content := by
  induction h with
  | stop => cases hf
  | turn pre content rest fs stay hpre hcontent more ih =>
    obtain rfl | hf := List.mem_cons.mp hf
    · exact ⟨content, rfl⟩
    · exact ih hf

/-! ## Escaped bytes (40 R102, R103; 30 R68) -/

theorem escapedAll_cons (b : Byte) (bs : List Byte) : escapedAll (b :: bs) = escaped b ++ escapedAll bs := rfl

theorem noMarker_append {a b : List Byte} : NoMarker (a ++ b) ↔ NoMarker a ∧ NoMarker b := by
  simp [NoMarker, not_or]

theorem noMarker_singleton {b : Byte} (h : b ≠ markerByte) : NoMarker [b] :=
  fun hmem => h (List.mem_singleton.mp hmem).symm

theorem noMarker_escaped (b : Byte) : NoMarker (escaped b) := by
  unfold escaped NoMarker
  split_ifs with hmarker hesc
  · decide
  · decide
  · exact noMarker_singleton hmarker

theorem noMarker_escapedAll (bytes : List Byte) : NoMarker (escapedAll bytes) := by
  induction bytes with
  | nil => exact List.not_mem_nil
  | cons b bs ih => exact noMarker_append.mpr ⟨noMarker_escaped b, ih⟩

/-- Escaping ends no byte in an unpaired ESC: the scan goes on as if it began behind it. -/
theorem endsInEsc_escapedAll (bytes more : List Byte) : endsInEsc false (escapedAll bytes ++ more) = endsInEsc false more := by
  induction bytes with
  | nil => rfl
  | cons b bs ih =>
    rw [escapedAll_cons, List.append_assoc, ← ih]
    unfold escaped
    split_ifs with hmarker hesc
    · rfl
    · rfl
    · have hscan : (b == escByte) = false := beq_eq_false_iff_ne.mpr hesc
      simp only [List.singleton_append, endsInEsc, hscan]

theorem unescape_escaped (b : Byte) (more : List Byte) : unescape false (escaped b ++ more) = consByte b (unescape false more) := by
  unfold escaped
  split_ifs with hmarker hesc
  · subst hmarker; rfl
  · subst hesc; rfl
  · exact if_neg hesc

/-- R103 undoes R102. -/
theorem decodeEscapes_escapedAll (bytes : List Byte) : decodeEscapes (escapedAll bytes) = .ok bytes := by
  unfold decodeEscapes
  induction bytes with
  | nil => rfl
  | cons b bs ih => rw [escapedAll_cons, unescape_escaped, ih, consByte]

/-! ## The class of a byte by what stands before it (30 R68) -/

/-- `buf` holds one open frame and its content so far; `pending` says whether that ends in an unpaired ESC. -/
structure OpenFrame (buf content : List Byte) (pending : Bool) : Prop where
  opened : ∃ pre, NoMarker pre ∧ buf = pre ++ markerByte :: content
  noMarker : NoMarker content
  ends : endsInEsc false content = pending

theorem OpenFrame.afterEsc_eq {buf content : List Byte} {pending : Bool} (h : OpenFrame buf content pending) :
    afterEsc buf = pending := by
  obtain ⟨⟨pre, hpre, rfl⟩, hcontent, rfl⟩ := h
  simp [afterEsc, openContent, extractFrames_one_marker hpre hcontent, splitMarker_append content hpre]

/-- With no frame open no byte follows an ESC of a frame. -/
theorem afterEsc_unframed {buf : List Byte} (h : NoMarker buf) : afterEsc buf = false := by
  simp [afterEsc, openContent, extractFrames_no_marker h, splitMarker_eq_none.mpr h, endsInEsc]

theorem classifyByte_literal {b : Byte} (hmarker : b ≠ markerByte) (hesc : b ≠ escByte) :
    classifyByte false b = .literal b := by
  simp [classifyByte, hmarker, hesc]

theorem classifyByte_illegal {b : Byte} (hmarker : b ≠ escMarkerByte) (hesc : b ≠ escEscByte) : classifyByte true b = .illegal := by
  simp [classifyByte, hmarker, hesc]

/-! ## Receiving outside a wait (assumption 10) -/

section
variable {s : State}

/-- The room that R100 asks for, in the spec's words and in the model's. -/
theorem fits_eq_true {bytes : List Byte} (h : Fits s bytes.length) : fits s bytes = true := by
  unfold fits
  split
  · rfl
  · rename_i cap hcap
    exact decide_eq_true (h cap hcap)

theorem fits_mono {m n : Nat} (h : Fits s n) (hmn : m ≤ n) : Fits s m := by
  intro cap hcap
  have := h cap hcap
  omega

theorem receiveBytes_outside {bytes : List Byte} (replyOf : List (List Byte) → Reply) (hwait : s.arqState ≠ .awaitingAck)
    (hfits : Fits s bytes.length) :
    receiveBytes bytes replyOf s =
      .next ((s.withRxbuf (extractFrames (s.rxbuf ++ bytes)).2).withReply (some (replyOf (extractFrames (s.rxbuf ++ bytes)).1))) := by
  rw [receiveBytes, if_neg hwait, if_pos (fits_eq_true hfits)]
  rfl

/-- The state after wire bytes of class `cls` have been received outside a wait. -/
def State.withReceived (s : State) (cls : ByteClass) (frames : List (List Byte)) (stay : List Byte) : State :=
  (s.withRxbuf stay).withReply (some (.received cls (producedBy cls) frames))

theorem receiveWire_outside {before : List Byte} {last : Byte} (hwait : s.arqState ≠ .awaitingAck)
    (hfits : Fits s (before ++ [last]).length) :
    receiveWire before last s = .next (s.withReceived (classifyByte (afterEsc (s.rxbuf ++ before)) last)
      (extractFrames (s.rxbuf ++ (before ++ [last]))).1 (extractFrames (s.rxbuf ++ (before ++ [last]))).2) :=
  receiveBytes_outside _ hwait hfits

/-- Each row of R68 is its bytes received, the class taken at the last. -/
theorem exec_of_encode_wire {i : Instr} {fmt : Format} {bytes : List Byte} (h : encode i = some (fmt, bytes))
    (hfmt : fmt = .wireByte ∨ fmt = .wireBytePair) :
    ∃ before last, bytes = before ++ [last] ∧ exec i s = receiveWire before last s := by
  cases i with
  | marker => cases h; exact ⟨[], markerByte, rfl, rfl⟩
  | esc => cases h; exact ⟨[], escByte, rfl, rfl⟩
  | escMarker => cases h; exact ⟨[escByte], escMarkerByte, rfl, rfl⟩
  | escEsc => cases h; exact ⟨[escByte], escEscByte, rfl, rfl⟩
  | literal b => cases h; exact ⟨[], b, rfl, rfl⟩
  | illegalEscape x => cases h; exact ⟨[escByte], x, rfl, rfl⟩
  | _ => cases h <;> simp at hfmt

/-! ### By what the buffer holds before the last byte -/

section
variable {before content : List Byte} {last : Byte} {pending : Bool} {cls : ByteClass} (hwait : s.arqState ≠ .awaitingAck)
  (hfits : Fits s (before ++ [last]).length)
include hwait hfits

/-- A byte that is no marker extends the open frame. -/
theorem receiveWire_extends (hopen : OpenFrame (s.rxbuf ++ before) content pending) (hlast : last ≠ markerByte)
    (hcls : classifyByte pending last = cls) :
    receiveWire before last s = .next (s.withReceived cls [] (s.rxbuf ++ (before ++ [last]))) := by
  have hcut : extractFrames (s.rxbuf ++ (before ++ [last])) = ([], s.rxbuf ++ (before ++ [last])) := by
    obtain ⟨⟨pre, hpre, hbuf⟩, hcontent, -⟩ := hopen
    rw [← List.append_assoc, hbuf, List.append_assoc, List.cons_append]
    exact extractFrames_one_marker hpre (noMarker_append.mpr ⟨hcontent, noMarker_singleton hlast⟩)
  rw [receiveWire_outside hwait hfits, hcut, hopen.afterEsc_eq, hcls]

/-- A marker closes the open frame, whatever its class (R68, R70). -/
theorem receiveWire_closes (hopen : OpenFrame (s.rxbuf ++ before) content pending) (hlast : last = markerByte)
    (hcls : classifyByte pending last = cls) : receiveWire before last s = .next (s.withReceived cls [delimit content] []) := by
  have hcut : extractFrames (s.rxbuf ++ (before ++ [last])) = ([delimit content], []) := by
    obtain ⟨⟨pre, hpre, hbuf⟩, hcontent, -⟩ := hopen
    rw [← List.append_assoc, hbuf, hlast, List.append_assoc, List.cons_append]
    exact extractFrames_turn [] hpre hcontent
  rw [receiveWire_outside hwait hfits, hcut, hopen.afterEsc_eq, hcls]

/-- With no frame open every byte is kept; a marker opens a frame. -/
theorem receiveWire_unframed (hnone : NoMarker (s.rxbuf ++ before)) (hcls : classifyByte false last = cls) :
    receiveWire before last s = .next (s.withReceived cls [] (s.rxbuf ++ (before ++ [last]))) := by
  have hcut : extractFrames (s.rxbuf ++ (before ++ [last])) = ([], s.rxbuf ++ (before ++ [last])) := by
    rw [← List.append_assoc]
    by_cases hlast : last = markerByte
    · rw [hlast]
      exact extractFrames_one_marker hnone List.not_mem_nil
    · exact extractFrames_no_marker (noMarker_append.mpr ⟨hnone, noMarker_singleton hlast⟩)
  rw [receiveWire_outside hwait hfits, hcut, afterEsc_unframed hnone, hcls]

end

end

/-! ### What may precede the byte -/

/-- The open frame whose content so far is escaped bytes. -/
theorem openFrame_escapedAll {pre : List Byte} (x : List Byte) (hpre : NoMarker pre) :
    OpenFrame (pre ++ markerByte :: escapedAll x) (escapedAll x) false :=
  ⟨⟨pre, hpre, rfl⟩, noMarker_escapedAll x, by simpa [endsInEsc] using endsInEsc_escapedAll x []⟩

/-- The same frame after a DB. -/
theorem openFrame_escapedAll_esc {pre : List Byte} (x : List Byte) (hpre : NoMarker pre) :
    OpenFrame (pre ++ markerByte :: (escapedAll x ++ [escByte])) (escapedAll x ++ [escByte]) true :=
  ⟨⟨pre, hpre, rfl⟩, noMarker_append.mpr ⟨noMarker_escapedAll x, noMarker_singleton (by decide)⟩, endsInEsc_escapedAll x [escByte]⟩

/-- The frame that DB C0 closes. -/
theorem delimit_append_esc (content : List Byte) : delimit (content ++ [escByte]) = markerByte :: (content ++ [escByte, markerByte]) := by
  simp [delimit]

/-! ## Wire forms (assumption 11) -/

theorem exec_frame_outside {content : List Byte} {s : State} (hwait : s.arqState ≠ .awaitingAck) (hfits : Fits s (content.length + 2)) :
    exec (.frame content) s = .next ((s.withRxbuf (extractFrames (s.rxbuf ++ delimit content)).2).withReply
      (some (.decoded ((extractFrames (s.rxbuf ++ delimit content)).1.map (decodeFrame s.config))))) := by
  have hlength : (delimit content).length = content.length + 2 := by simp [delimit]
  exact receiveBytes_outside (fun fs => .decoded (fs.map (decodeFrame s.config))) hwait (hlength ▸ hfits)

/-- What PK.DECODE replies for its result (41 R125). -/
def packetReply : Except Err Packet → Reply
  | .ok p => .packet p
  | .error e => .raised e

theorem answerPacket_eq (s : State) (r : Except Err Packet) : answerPacket s r = .next (s.withReply (some (packetReply r))) := by
  cases r <;> rfl

/-- Packets and errors have different replies. -/
theorem packetReply_injective : Function.Injective packetReply := by
  intro r r' h
  cases r <;> cases r' <;> simp_all [packetReply]

theorem exec_pkDecode_delimit (content : List Byte) (s : State) :
    exec (.pkDecode (delimit content)) s = .next (s.withReply (some (packetReply (decodeContent s.config content)))) := by
  rw [exec, execPkDecode, if_pos (frameDomain_delimit content), decodeFrame, frameContent_delimit, answerPacket_eq]

theorem decodeContent_escapedAll (cfg : Config) (u : List Byte) : decodeContent cfg (escapedAll u) = decodeRaw cfg u := by
  rw [decodeContent, decodeEscapes_escapedAll]

theorem decodeFrame_eq_iff_exec_pkDecode (content : List Byte) (s : State) (r : Except Err Packet) :
    decodeFrame s.config (delimit content) = r ↔
      exec (.pkDecode (delimit content)) s = .next (s.withReply (some (packetReply r))) := by
  rw [exec_pkDecode_delimit, decodeFrame, frameContent_delimit]
  simp [State.withReply, packetReply_injective.eq_iff]

end Sys2Proof.Machine

open Sys2Proof.Spec Sys2Proof.Machine

/-- Settles O8: each row is its bytes received, and what FC.DECODE cuts from the buffer is what R101's loop cuts. -/
theorem Sys2Proof.wireBytesPassTheFrameCodec : Obligations.WireBytesPassTheFrameCodec := by
  intro i fmt bytes s hencode hfmt hwait hfits
  obtain ⟨before, last, rfl, hexec⟩ := exec_of_encode_wire (s := s) hencode hfmt
  exact ⟨_, _, _, _, cuts_extractFrames (s.rxbuf ++ (before ++ [last])), hexec.trans (receiveWire_outside hwait hfits)⟩

/-- Settles O9: by what the buffer holds before the class's last byte, an open frame, one after a DB, or none. -/
theorem Sys2Proof.receivedBytesByClass : Obligations.ReceivedBytesByClass := by
  refine ⟨fun pre x b s hpre hbuf hwait hfits => ?opened, fun b s hnone hwait hfits => ?unframedByte,
    fun pre x b s hpre hbuf hwait hfits => ?afterEsc, fun b s hnone hwait hfits => ?unframedPair⟩
  case opened =>
    have hone : Fits s 1 := fits_mono hfits (by decide)
    have hopen : OpenFrame (s.rxbuf ++ []) (escapedAll x) false := by
      rw [hbuf, List.append_nil]
      exact openFrame_escapedAll x hpre
    have hpending : OpenFrame (s.rxbuf ++ [escByte]) (escapedAll x ++ [escByte]) true := by
      rw [hbuf, List.append_assoc]
      exact openFrame_escapedAll_esc x hpre
    refine ⟨?marker, ?esc, fun hmarker hesc => ?literal, ?escMarker, ?escEsc, fun hdc hdd hmarker => ?illegal, ?illegalMarker⟩
    case marker => exact receiveWire_closes hwait hone hopen rfl rfl
    case esc => exact receiveWire_extends hwait hone hopen (by decide) rfl
    case literal => exact receiveWire_extends hwait hone hopen hmarker (classifyByte_literal hmarker hesc)
    case escMarker => exact receiveWire_extends hwait hfits hpending (by decide) rfl
    case escEsc => exact receiveWire_extends hwait hfits hpending (by decide) rfl
    case illegal => exact receiveWire_extends hwait hfits hpending hmarker (classifyByte_illegal hdc hdd)
    case illegalMarker =>
      exact delimit_append_esc (escapedAll x) ▸ receiveWire_closes hwait hfits hpending rfl rfl
  case unframedByte =>
    have hbefore : NoMarker (s.rxbuf ++ []) := by rwa [List.append_nil]
    refine ⟨?marker, ?esc, fun hmarker hesc => ?literal⟩
    case marker => exact receiveWire_unframed hwait hfits hbefore rfl
    case esc => exact receiveWire_unframed hwait hfits hbefore rfl
    case literal => exact receiveWire_unframed hwait hfits hbefore (classifyByte_literal hmarker hesc)
  case afterEsc =>
    have hpending : OpenFrame (s.rxbuf ++ []) (escapedAll x ++ [escByte]) true := by
      rw [hbuf, List.append_nil]
      exact openFrame_escapedAll_esc x hpre
    refine ⟨?marker, ?esc, ?escMarker, ?escEsc, fun hdc hdd hmarker => ?illegal⟩
    case marker => exact delimit_append_esc (escapedAll x) ▸ receiveWire_closes hwait hfits hpending rfl rfl
    case esc => exact receiveWire_extends hwait hfits hpending (by decide) rfl
    case escMarker => exact receiveWire_extends hwait hfits hpending (by decide) rfl
    case escEsc => exact receiveWire_extends hwait hfits hpending (by decide) rfl
    case illegal => exact receiveWire_extends hwait hfits hpending hmarker (classifyByte_illegal hdc hdd)
  case unframedPair =>
    have hbefore : NoMarker (s.rxbuf ++ [escByte]) := noMarker_append.mpr ⟨hnone, noMarker_singleton (by decide)⟩
    refine ⟨?escMarker, ?escEsc, fun hmarker hesc => ?literal, ?esc, ?marker⟩
    case escMarker => exact receiveWire_unframed hwait hfits hbefore rfl
    case escEsc => exact receiveWire_unframed hwait hfits hbefore rfl
    case literal => exact receiveWire_unframed hwait hfits hbefore (classifyByte_literal hmarker hesc)
    case esc => exact receiveWire_unframed hwait hfits hbefore rfl
    case marker => exact receiveWire_unframed hwait hfits hbefore rfl

/-- Settles O11: unescaping undoes escaping, and every frame that is cut is in PK.DECODE's domain. -/
theorem Sys2Proof.wireFormsGiveTheirPackets : Obligations.WireFormsGiveTheirPackets := by
  refine ⟨fun u s => ⟨?rawIsFrame, ?rawCompletes⟩, fun content s hwait hfits =>
    ⟨_, _, cuts_extractFrames _, ?frame, fun f hf => ?decodes, fun hnone hcontent => ?single⟩⟩
  case rawIsFrame =>
    calc exec (.rawPacket u) s = .next (s.withReply (some (packetReply (decodeRaw s.config u)))) := answerPacket_eq s _
      _ = exec (.pkDecode (wireFrame u)) s := by
        rw [← decodeContent_escapedAll]
        exact (exec_pkDecode_delimit (escapedAll u) s).symm
  case rawCompletes => exact ⟨_, answerPacket_eq s _⟩
  case frame => exact exec_frame_outside hwait hfits
  case decodes =>
    obtain ⟨inner, rfl⟩ := delimit_of_mem_cuts (cuts_extractFrames _) hf
    exact ⟨fun p => decodeFrame_eq_iff_exec_pkDecode inner s (.ok p), fun e => decodeFrame_eq_iff_exec_pkDecode inner s (.error e)⟩
  case single => exact Prod.ext_iff.mp (extractFrames_turn [] hnone hcontent)
end

section
/-! Proofs about the host's turn (30_encoding R72, 70 R230): outside an RT.SEND a step takes the request at the head of the program. -/

namespace Sys2Proof.Machine

variable {s : State}

theorem select_hostTurn (h : hostHasTurn s.arqState = true) : select s = hostTurn s := by
  unfold select
  cases harq : s.arqState with
  | closed => rfl
  | idle => rfl
  | failed => rfl
  | _ => rw [harq] at h; cases h

theorem step_of_request {r : Request} {rest : List Request} {i : Instr} (hturn : hostHasTurn s.arqState = true)
    (htasks : s.host.tasks = []) (hprogram : s.host.program = r :: rest) (hfetch : fetchRequest r = .ok i) :
    step s = exec i (s.withHost { s.host with program := rest }) := by
  simp only [step, select_hostTurn hturn, hostTurn, htasks, hprogram, hfetch]

/-- 93 U5, 92 D24: bytes that are no word are taken and not accepted (assumption 12). -/
theorem step_of_no_word {r : Request} {rest : List Request} {e : DecodeError} (hturn : hostHasTurn s.arqState = true)
    (htasks : s.host.tasks = []) (hprogram : s.host.program = r :: rest) (hfetch : fetchRequest r = .error e) :
    step s = .next ((s.withHost { s.host with program := rest }).withReply (some .refused)) := by
  simp only [step, select_hostTurn hturn, hostTurn, htasks, hprogram, hfetch]

theorem step_of_no_request (hturn : hostHasTurn s.arqState = true) (htasks : s.host.tasks = []) (hprogram : s.host.program = []) :
    step s = .next s := by
  simp only [step, select_hostTurn hturn, hostTurn, htasks, hprogram]

end Sys2Proof.Machine

open Sys2Proof.Machine

/-- Settles O42: by what the program's head is, a word or a named operation, and by what the decoder reads from it. -/
theorem Sys2Proof.stepRunsTheFetchedRequest : Obligations.StepRunsTheFetchedRequest := by
  intro s rest hturn htasks
  refine ⟨fun fmt bytes i hprogram hdecode => ?word, fun fmt bytes e hprogram hdecode => ?noWord, fun i hprogram => ?operation,
    fun hprogram => ?noRequest⟩
  case word => exact step_of_request hturn htasks hprogram hdecode
  case noWord => exact step_of_no_word hturn htasks hprogram hdecode
  case operation => exact step_of_request hturn htasks hprogram rfl
  case noRequest => exact step_of_no_request hturn htasks hprogram
end

section
/-! Proofs about the Frame Codec's operations (40 R100 to R106): escaping and unescaping, the cut of R101 and its frames fed in
pieces, and the byte-serial deframer of R104. -/

namespace Sys2Proof.Machine

open Sys2Proof.Spec

/-! ## The replies -/

theorem fcEncode_next (bytes : List Byte) (s : State) :
    exec (.fcEncode bytes) s = .next (s.withReply (some (.bytes (encodeEscapes bytes)))) := rfl

theorem fcDecodeEscapes_next (bytes : List Byte) (s : State) :
    exec (.fcDecodeEscapes bytes) s = .next (s.withReply (some (bytesReply (decodeEscapes bytes)))) := by
  simp only [exec, execFcDecodeEscapes]
  cases decodeEscapes bytes <;> rfl

theorem fcDecode_next {s : State} {frames : List (List Byte)} {stay : List Byte} (hcut : extractFrames s.rxbuf = (frames, stay)) :
    exec .fcDecode s = .next ((s.withRxbuf stay).withReply (some (.frames frames))) := by
  simp [exec, execFcDecode, appendAndDecode, answer, hcut]

theorem fcAppend_next {bytes : List Byte} {s : State} (h : Fits s bytes.length) :
    exec (.fcAppend bytes) s = .next ((s.withRxbuf (s.rxbuf ++ bytes)).withReply (some .nothing)) :=
  if_pos (fits_eq_true h)

theorem fits_of_unbounded {s : State} (h : s.config.rxBufCap = none) (n : Nat) : Fits s n := by
  intro cap hcap
  cases h.symm.trans hcap

/-! ## Escaping (40 R102) -/

theorem encodeEscapes_eq_escapedAll (bytes : List Byte) : encodeEscapes bytes = escapedAll bytes := by
  induction bytes with
  | nil => rfl
  | cons b bs ih => exact congrArg (escapeByte b ++ ·) ih

theorem escapedAll_append (a b : List Byte) : escapedAll (a ++ b) = escapedAll a ++ escapedAll b := List.flatMap_append

/-- A byte takes two wire bytes where the codec uses it itself, else one. -/
theorem length_escaped (b : Byte) : (escaped b).length = if b = markerByte ∨ b = escByte then 2 else 1 := by
  by_cases hmarker : b = markerByte
  · subst hmarker; rfl
  by_cases hesc : b = escByte
  · subst hesc; rfl
  · have hself : escaped b = [b] := (if_neg hmarker).trans (if_neg hesc)
    rw [hself, if_neg (not_or.mpr ⟨hmarker, hesc⟩)]
    rfl

theorem length_escapedAll_bounds (bytes : List Byte) :
    bytes.length ≤ (escapedAll bytes).length ∧ (escapedAll bytes).length ≤ 2 * bytes.length := by
  induction bytes with
  | nil => exact ⟨Nat.le_refl _, Nat.le_refl _⟩
  | cons b bs ih =>
    have hb := length_escaped b
    rw [escapedAll_cons, List.length_append, List.length_cons]
    split at hb <;> omega

/-- Twice as long, only if each byte takes two. -/
theorem length_escapedAll_eq_double (bytes : List Byte) :
    (escapedAll bytes).length = 2 * bytes.length ↔ ∀ b ∈ bytes, b = markerByte ∨ b = escByte := by
  induction bytes with
  | nil => simp [escapedAll]
  | cons b bs ih =>
    have hb := length_escaped b
    have hbound := (length_escapedAll_bounds bs).2
    rw [List.forall_mem_cons, ← ih, escapedAll_cons, List.length_append, List.length_cons]
    split at hb
    · rename_i hspecial
      simp only [hspecial, true_and]
      omega
    · rename_i hspecial
      simp only [hspecial, false_and, iff_false]
      omega

/-! ## Unescaping (40 R103) -/

theorem length_consByte_le {b : Byte} {r : Except Err (List Byte)} {out : List Byte} {n : Nat} (h : consByte b r = .ok out)
    (hr : ∀ out', r = .ok out' → out'.length ≤ n) : out.length ≤ n + 1 := by
  cases r with
  | ok out' =>
    cases h
    exact Nat.succ_le_succ (hr out' rfl)
  | error e => cases h

theorem length_unescape_le {pending : Bool} {l out : List Byte} (h : unescape pending l = .ok out) : out.length ≤ l.length := by
  induction l generalizing pending out with
  | nil => cases pending <;> cases h; exact Nat.le_refl 0
  | cons b bs ih =>
    have hcons {c : Byte} (hc : consByte c (unescape false bs) = .ok out) : out.length ≤ bs.length + 1 :=
      length_consByte_le hc fun _ => ih
    cases pending with
    | false =>
      simp only [unescape] at h
      split at h
      · exact (ih h).trans (Nat.le_succ _)
      · exact hcons h
    | true =>
      simp only [unescape] at h
      split at h
      · exact hcons h
      split at h
      · exact hcons h
      · cases h

/-- R103's output so far in front of what the rest gives; an error leaves no partial output. -/
def prependBytes (out : List Byte) : Except Err (List Byte) → Except Err (List Byte)
  | .ok bs => .ok (out ++ bs)
  | .error e => .error e

theorem prependBytes_consByte (out : List Byte) (b : Byte) (r : Except Err (List Byte)) :
    prependBytes out (consByte b r) = prependBytes (out ++ [b]) r := by
  cases r with
  | ok bs => simp [prependBytes, consByte]
  | error e => rfl

theorem prependBytes_nil (r : Except Err (List Byte)) : prependBytes [] r = r := by
  cases r <;> rfl

/-- R103's loop at the index behind `pre` is the scan of the bytes from there on. -/
theorem unescapeLoop_eq {fuel : Nat} {pre l : List Byte} (out : List Byte) (hfuel : l.length < fuel) :
    unescapeLoop (pre ++ l) fuel pre.length out = prependBytes out (unescape false l) := by
  induction fuel generalizing pre l out with
  | zero => omega
  | succ fuel ih =>
    -- The next turn begins behind the bytes `c` that this one has taken.
    have next (c rest out' : List Byte) (hlt : rest.length < fuel) :
        unescapeLoop (pre ++ (c ++ rest)) fuel (pre.length + c.length) out' = prependBytes out' (unescape false rest) := by
      rw [← List.append_assoc, ← List.length_append]
      exact ih out' hlt
    cases l with
    | nil => simp [unescapeLoop, unescape, prependBytes]
    | cons b rest =>
      have hhead : (pre ++ b :: rest).getD pre.length 0#8 = b := by simp
      have hmore : ¬ (pre ++ b :: rest).length ≤ pre.length := by simp
      simp only [List.length_cons] at hfuel
      rw [unescapeLoop, if_neg hmore, hhead]
      by_cases hesc : b = 0xDB#8
      · rw [if_pos hesc]
        cases rest with
        | nil => simp [hesc, unescape, escByte, prependBytes]
        | cons c rest =>
          have hsecond : (pre ++ b :: c :: rest).getD (pre.length + 1) 0#8 = c := by simp
          have hpair : ¬ (pre ++ b :: c :: rest).length ≤ pre.length + 1 := by simp
          have next_pair (out' : List Byte) := next [b, c] rest out' (by simp at hfuel; omega)
          rw [if_neg hpair, hsecond]
          by_cases hdc : c = 0xDC#8
          · rw [if_pos hdc]
            subst hesc hdc
            exact (next_pair _).trans (prependBytes_consByte ..).symm
          by_cases hdd : c = 0xDD#8
          · rw [if_neg hdc, if_pos hdd]
            subst hesc hdd
            exact (next_pair _).trans (prependBytes_consByte ..).symm
          · rw [if_neg hdc, if_neg hdd]
            simp [hesc, hdc, hdd, unescape, escByte, escMarkerByte, escEscByte, prependBytes]
      · have hliteral : unescape false (b :: rest) = consByte b (unescape false rest) := if_neg hesc
        rw [if_neg hesc, hliteral, prependBytes_consByte]
        exact next [b] rest _ (by omega)

theorem unescaped_eq_decodeEscapes (bytes : List Byte) : unescaped bytes = decodeEscapes bytes :=
  (unescapeLoop_eq (pre := []) [] (Nat.lt_succ_self _)).trans (prependBytes_nil _)

/-- R105: what FC.ENCODE gives unescapes to its operand. -/
theorem fcDecodeEscapes_escapedAll (bytes : List Byte) (s : State) :
    exec (.fcDecodeEscapes (escapedAll bytes)) s = .next (s.withReply (some (.bytes bytes))) := by
  rw [fcDecodeEscapes_next, decodeEscapes_escapedAll, bytesReply]

/-! ## The cut (40 R101) -/

theorem extractFrames_of_count_le_one {buf : List Byte} (h : buf.count markerByte ≤ 1) : extractFrames buf = ([], buf) := by
  obtain hnone | ⟨pre, content, rest, -, -, rfl⟩ := extractFrames_cases buf
  · exact extractFrames_of_no_frame hnone
  · simp only [List.count_append, List.count_cons_self] at h
    omega

/-- There is one cut: R101's loop has no choice. -/
theorem extractFrames_of_cuts {buf stay : List Byte} {fs : List (List Byte)} (h : Cuts buf fs stay) :
    extractFrames buf = (fs, stay) := by
  induction h with
  | stop buf hcount => exact extractFrames_of_count_le_one hcount
  | turn pre content rest fs stay hpre hcontent more ih =>
    exact (extractFrames_turn rest hpre hcontent).trans (by rw [ih]; rfl)

theorem count_marker_le_one_of_cuts {buf stay : List Byte} {fs : List (List Byte)} (h : Cuts buf fs stay) :
    stay.count markerByte ≤ 1 := by
  induction h with
  | stop buf hcount => exact hcount
  | turn pre content rest fs stay hpre hcontent more ih => exact ih

/-- After FC.DECODE the buffer holds no complete frame. -/
theorem extractFrames_stay (buf : List Byte) : extractFrames (extractFrames buf).2 = ([], (extractFrames buf).2) :=
  extractFrames_of_count_le_one (count_marker_le_one_of_cuts (cuts_extractFrames buf))

/-- Wire frames one behind the other are cut into themselves and leave nothing. -/
theorem extractFrames_wireFrames (cs : List (List Byte)) :
    extractFrames (cs.map wireFrame).flatten = (cs.map wireFrame, []) := by
  induction cs with
  | nil => rfl
  | cons c cs ih =>
    have hbytes : ((c :: cs).map wireFrame).flatten =
        [] ++ markerByte :: (escapedAll c ++ markerByte :: (cs.map wireFrame).flatten) := by
      simp [wireFrame, markerByte]
    rw [hbytes, extractFrames_turn _ List.not_mem_nil (noMarker_escapedAll c), ih]
    rfl

/-- A wire frame that has not come to its end holds its opening marker at most. -/
theorem count_marker_le_one_of_unfinished {c buf tail : List Byte} (htail : tail ≠ []) (h : buf ++ tail = wireFrame c) :
    buf.count markerByte ≤ 1 := by
  obtain ⟨front, last, rfl⟩ := (List.eq_nil_or_concat tail).resolve_left htail
  have hframe : (buf ++ front) ++ [last] = (markerByte :: escapedAll c) ++ [markerByte] := by
    simpa [wireFrame, markerByte] using h
  have hfront : buf ++ front = markerByte :: escapedAll c := (List.append_inj' hframe rfl).1
  have hnone : (escapedAll c).count markerByte = 0 := List.count_eq_zero_of_not_mem (noMarker_escapedAll c)
  have hone : (buf ++ front).count markerByte = 1 := by rw [hfront, List.count_cons_self, hnone]
  rw [List.count_append] at hone
  omega

/-! ## Bytes fed in pieces (40 R106) -/

/-- The state after FC.APPEND of a piece and FC.DECODE. -/
def State.afterPiece (s : State) (piece : List Byte) : State :=
  (s.withRxbuf (extractFrames (s.rxbuf ++ piece)).2).withReply (some (.frames (extractFrames (s.rxbuf ++ piece)).1))

theorem feed_cons (p : List Byte) (ps : List (List Byte)) {s : State} (hcap : s.config.rxBufCap = none) :
    feed (p :: ps) s = (feed ps (s.afterPiece p)).map fun r => ((extractFrames (s.rxbuf ++ p)).1 ++ r.1, r.2) := by
  rw [feed, fcAppend_next (fits_of_unbounded hcap _)]
  simp only [fcDecode_next (s := (s.withRxbuf (s.rxbuf ++ p)).withReply (some .nothing)) rfl]
  rfl

/-- Pieces fed with FC.DECODE after each give the frames that one FC.DECODE of them all gives, and leave what it leaves. -/
theorem feed_unbounded (pieces : List (List Byte)) {s : State} (hcap : s.config.rxBufCap = none)
    (hdecoded : extractFrames s.rxbuf = ([], s.rxbuf)) :
    ∃ r, feed pieces s = some ((extractFrames (s.rxbuf ++ pieces.flatten)).1,
      (s.withRxbuf (extractFrames (s.rxbuf ++ pieces.flatten)).2).withReply r) := by
  induction pieces generalizing s with
  | nil =>
    rw [List.flatten_nil, List.append_nil, hdecoded]
    exact ⟨s.reply, rfl⟩
  | cons p ps ih =>
    obtain ⟨r, hr⟩ := ih (s := s.afterPiece p) hcap (extractFrames_stay _)
    refine ⟨r, ?_⟩
    rw [feed_cons p ps hcap, hr, List.flatten_cons, ← List.append_assoc, extractFrames_append (s.rxbuf ++ p)]
    rfl

/-- The same from an empty buffer, the cut named. -/
theorem feed_of_extractFrames {pieces frames : List (List Byte)} {stay : List Byte} {s : State} (hbuf : s.rxbuf = [])
    (hcap : s.config.rxBufCap = none) (hcut : extractFrames pieces.flatten = (frames, stay)) :
    ∃ r, feed pieces s = some (frames, (s.withRxbuf stay).withReply r) := by
  obtain ⟨r, hr⟩ := feed_unbounded pieces hcap (hbuf ▸ extractFrames_no_marker List.not_mem_nil)
  rw [hbuf, List.nil_append, hcut] at hr
  exact ⟨r, hr⟩

/-! ## The byte-serial deframer (40 R104) -/

/-- The deframer's state that a decoded buffer stands for. -/
def Deframer.Holds : Deframer → List Byte → Prop
  | .hunt, buf => NoMarker buf
  | .opened store, buf => ∃ pre, NoMarker pre ∧ NoMarker store ∧ buf = pre ++ markerByte :: store

namespace Deframer.Holds

variable {d : Deframer} {buf : List Byte}

theorem extractFrames_eq (h : d.Holds buf) : extractFrames buf = ([], buf) := by
  cases d with
  | hunt => exact extractFrames_no_marker h
  | opened store =>
    obtain ⟨pre, hpre, hstore, rfl⟩ := h
    exact extractFrames_one_marker hpre hstore

theorem hunt_iff (h : d.Holds buf) : d = .hunt ↔ NoMarker buf := by
  cases d with
  | hunt => exact ⟨fun _ => h, fun _ => rfl⟩
  | opened store =>
    obtain ⟨pre, -, -, rfl⟩ := h
    simp [NoMarker, markerByte]

/-- One byte appended and FC.DECODE do what the deframer does on it. -/
theorem step (h : d.Holds buf) (b : Byte) :
    (extractFrames (buf ++ [b])).1 = (deframerStep b d).1.toList ∧
      (deframerStep b d).2.Holds (extractFrames (buf ++ [b])).2 := by
  cases d with
  | hunt =>
    by_cases hb : b = markerByte
    · rw [hb, extractFrames_one_marker h List.not_mem_nil]
      exact ⟨rfl, buf, h, List.not_mem_nil, rfl⟩
    · have hnone : NoMarker (buf ++ [b]) := noMarker_append.mpr ⟨h, noMarker_singleton hb⟩
      rw [extractFrames_no_marker hnone, deframerStep, if_neg hb]
      exact ⟨rfl, hnone⟩
  | opened store =>
    obtain ⟨pre, hpre, hstore, rfl⟩ := h
    rw [List.append_assoc, List.cons_append]
    by_cases hb : b = markerByte
    · rw [hb, extractFrames_turn [] hpre hstore]
      exact ⟨rfl, List.not_mem_nil⟩
    · have hstore' : NoMarker (store ++ [b]) := noMarker_append.mpr ⟨hstore, noMarker_singleton hb⟩
      rw [extractFrames_one_marker hpre hstore', deframerStep, if_neg hb]
      exact ⟨rfl, pre, hpre, hstore', rfl⟩

theorem run (h : d.Holds buf) (bytes : List Byte) :
    (extractFrames (buf ++ bytes)).1 = (deframerRun bytes d).1 ∧
      (deframerRun bytes d).2.Holds (extractFrames (buf ++ bytes)).2 := by
  induction bytes generalizing d buf with
  | nil =>
    rw [List.append_nil, h.extractFrames_eq]
    exact ⟨rfl, h⟩
  | cons b bs ih =>
    obtain ⟨hframes, hnext⟩ := h.step b
    obtain ⟨hmore, hend⟩ := ih hnext
    rw [← List.singleton_append, ← List.append_assoc, extractFrames_append, hframes, hmore]
    exact ⟨rfl, hend⟩

end Deframer.Holds

end Sys2Proof.Machine

open Sys2Proof.Spec Sys2Proof.Machine

/-- Settles O5: FC.DECODE makes a cut, R101's loop makes no other, and what it leaves is cut no further. -/
theorem Sys2Proof.fcDecodeCutsTheFrames : Obligations.FcDecodeCutsTheFrames := by
  intro s
  have hcuts := cuts_extractFrames s.rxbuf
  refine ⟨(extractFrames s.rxbuf).1, (extractFrames s.rxbuf).2, fcDecode_next rfl, hcuts, fun fs stay h => ?unique,
    count_marker_le_one_of_cuts hcuts, ?second⟩
  case unique => exact Prod.ext_iff.mp ((extractFrames_of_cuts h).symm)
  case second => exact fcDecode_next (extractFrames_stay s.rxbuf)

/-- Settles O1: by the bytes; each takes one wire byte or two. -/
theorem Sys2Proof.fcEncodeEscapesBytewise : Obligations.FcEncodeEscapesBytewise := by
  intro bytes more s
  obtain ⟨hlower, hupper⟩ := length_escapedAll_bounds bytes
  refine ⟨?reply, noMarker_escapedAll bytes, hlower, hupper, length_escapedAll_eq_double bytes, escapedAll_append bytes more,
    ?notIdempotent⟩
  case reply => exact encodeEscapes_eq_escapedAll bytes ▸ fcEncode_next bytes s
  case notIdempotent => exact ⟨[markerByte], by decide⟩

/-- Settles O2: the loop at each index is the model's scan of the bytes from there on. -/
theorem Sys2Proof.fcDecodeEscapesFollowsTheLoop : Obligations.FcDecodeEscapesFollowsTheLoop := by
  intro bytes s
  rw [unescaped_eq_decodeEscapes]
  exact ⟨fcDecodeEscapes_next bytes s, fun e h => unescape_error h, fun out h => length_unescape_le h, rfl, rfl, rfl⟩

/-- Settles O3: unescaping undoes escaping; C0, which is no output of FC.ENCODE, unescapes to itself. -/
theorem Sys2Proof.escapePairRoundTrips : Obligations.EscapePairRoundTrips := by
  intro x s
  refine ⟨escapedAll x, ?encode, noMarker_escapedAll x, ?decode, rfl, rfl⟩
  case encode => exact encodeEscapes_eq_escapedAll x ▸ fcEncode_next x s
  case decode => exact fcDecodeEscapes_escapedAll x s

/-- Settles O4: with room for both pieces there is room for each, and appending is associative. -/
theorem Sys2Proof.fcAppendStoresAtTheTail : Obligations.FcAppendStoresAtTheTail := by
  intro a b s hfits
  have hboth : Fits s (a ++ b).length := by rwa [List.length_append]
  have hempty : Fits s ([] : List Byte).length := fits_mono hfits (Nat.zero_le _)
  have hfirst : Fits s a.length := fits_mono hfits (Nat.le_add_right _ _)
  refine ⟨fcAppend_next hboth, ?empty, _, fcAppend_next hfirst, rfl, ?second⟩
  case empty => exact (fcAppend_next hempty).trans (by rw [List.append_nil]; rfl)
  case second =>
    have hsecond : Fits ((s.withRxbuf (s.rxbuf ++ a)).withReply (some .nothing)) b.length := by
      intro cap hcap
      have := hfits cap hcap
      simp
      omega
    rw [fcAppend_next hsecond, fcAppend_next hboth, ← List.append_assoc]
    rfl

/-- Settles O6: what is fed is cut as one; wire frames are cut into themselves, and one not yet ended holds no second
marker. -/
theorem Sys2Proof.fedFramesComeBackInOrder : Obligations.FedFramesComeBackInOrder := by
  intro s hbuf hcap
  refine ⟨fun cs pieces hpieces => ?whole, fun c pieces tail htail hunfinished => ?part, fun c => ?content⟩
  case whole =>
    have hcut := extractFrames_wireFrames cs
    rw [← hpieces] at hcut
    have hsame : s.withRxbuf [] = s := hbuf ▸ rfl
    obtain ⟨r, hr⟩ := feed_of_extractFrames hbuf hcap hcut
    exact ⟨r, hsame ▸ hr⟩
  case part =>
    exact feed_of_extractFrames hbuf hcap (extractFrames_of_count_le_one (count_marker_le_one_of_unfinished htail hunfinished))
  case content => exact fcDecodeEscapes_escapedAll c s

/-- Settles O7: the buffer stands for the deframer's state after every byte. -/
theorem Sys2Proof.bufferRefinesTheDeframer : Obligations.BufferRefinesTheDeframer := by
  intro bytes s hbuf hcap
  have hstart : Deframer.hunt.Holds [] := List.not_mem_nil
  obtain ⟨hframes, hholds⟩ := hstart.run bytes
  have hbytes : (bytes.map fun b => [b]).flatten = bytes := by
    rw [← List.flatMap_def]
    exact List.flatMap_singleton' bytes
  have hcut : extractFrames (bytes.map fun b => [b]).flatten = ((deframerRun bytes .hunt).1, (extractFrames bytes).2) := by
    rw [hbytes]
    exact Prod.ext hframes rfl
  obtain ⟨r, hr⟩ := feed_of_extractFrames hbuf hcap hcut
  refine ⟨_, r, hr, hholds.hunt_iff, fun store hstore => ?opened⟩
  rw [hstore] at hholds
  exact hholds
end

section
/-! Proofs about a finite RX_BUF_CAP (93 U8, 92 D16; assumption 17): what the operations that receive bytes do where the bytes do not
fit, and that no effect stores more than the capacity. -/

namespace Sys2Proof.Machine

open Sys2Proof.Spec

/-! ## Bytes that do not fit -/

section
variable {s : State} {bytes : List Byte} {b : Byte}

theorem fits_eq_false {cap : Nat} (hcap : s.config.rxBufCap = some cap) (h : cap < s.rxbuf.length + bytes.length) :
    fits s bytes = false := by
  simpa [fits, hcap] using h

theorem fcAppend_overflow (h : fits s bytes = false) : exec (.fcAppend bytes) s = .next (s.withReply (some .refused)) := by
  simp only [exec, execFcAppend, h, refuse, answer, if_false, Bool.false_eq_true]

theorem receiveBytes_overflow (replyOf : List (List Byte) → Reply) (hwait : s.arqState ≠ .awaitingAck) (h : fits s bytes = false) :
    receiveBytes bytes replyOf s = .next (s.withReply (some .refused)) := by
  simp only [receiveBytes, if_neg hwait, h, refuse, answer, if_false, Bool.false_eq_true]

/-- R68, R60: each byte class, each pair and FRAME is its wire bytes received. -/
theorem exec_of_encode_receives {i : Instr} {fmt : Format} (h : encode i = some (fmt, bytes))
    (hfmt : fmt = .wireByte ∨ fmt = .wireBytePair ∨ fmt = .wireFrame) :
    ∃ replyOf, exec i s = receiveBytes bytes replyOf s := by
  cases i with
  | frame content => cases h; exact ⟨fun fs => .decoded (fs.map (decodeFrame s.config)), rfl⟩
  | _ =>
    obtain ⟨before, last, rfl, hexec⟩ := exec_of_encode_wire (s := s) h (by cases h <;> simp_all)
    exact ⟨_, hexec⟩

theorem waitByte_overflow (h : fits s [b] = false) : waitByte b s = .refused .rxBufOverflow := by
  simp only [waitByte, h, if_false, Bool.false_eq_true]

theorem literal_overflow_in_wait (hwait : s.arqState = .awaitingAck) (h : fits s [b] = false) :
    exec (.literal b) s = .refused .rxBufOverflow := by
  have hfeed : exec (.literal b) s = feedWait [b] s := if_pos hwait
  rw [hfeed, feedWait, if_pos hwait, waitByte_overflow h]

/-! ## The step of a wait on a received byte (42 R143) -/

variable {rest : List RxInput}

theorem onReceivedByte_wanted {wanted : Verdict → Bool} (hwait : s.arqState = .awaitingAck) (hrx : s.chan.rxIn = .byte b :: rest)
    (hwanted : wanted (waitVerdict b s) = true) : onReceivedByte wanted s = waitByte b (s.withRxIn rest) := by
  simp only [onReceivedByte, if_pos hwait, hrx, if_pos hwanted]

/-- Whatever the byte's verdict, the transition that R154 lists for it is one on this byte. -/
theorem exec_waitInstr_of_received_byte (hwait : s.arqState = .awaitingAck) (hrx : s.chan.rxIn = .byte b :: rest) :
    ∃ wanted, exec (waitInstr s) s = onReceivedByte wanted s ∧ wanted (waitVerdict b s) = true := by
  simp only [waitInstr, hrx]
  cases waitVerdict b s with
  | noFrame => exact ⟨Verdict.completesNone, by simp only [exec, execTRxByte, if_pos hwait, hrx], rfl⟩
  | accepted | noTxSeq => exact ⟨fun v => decide (v = .accepted ∨ v = .noTxSeq), rfl, rfl⟩
  | wrongAck => exact ⟨fun v => decide (v = .wrongAck ∨ v = .noTxSeq), rfl, rfl⟩
  | notDecoded e => exact ⟨Verdict.isNotDecoded, rfl, rfl⟩

theorem step_of_received_byte (hwait : s.arqState = .awaitingAck) (hrx : s.chan.rxIn = .byte b :: rest) :
    step s = waitByte b (s.withRxIn rest) := by
  obtain ⟨wanted, hexec, hwanted⟩ := exec_waitInstr_of_received_byte hwait hrx
  calc step s = exec (waitInstr s) s := by simp only [step, select, hwait]
    _ = onReceivedByte wanted s := hexec
    _ = waitByte b (s.withRxIn rest) := onReceivedByte_wanted hwait hrx hwanted

theorem step_overflow (hwait : s.arqState = .awaitingAck) (hrx : s.chan.rxIn = .byte b :: rest) (h : fits s [b] = false) :
    step s = .refused .rxBufOverflow := by
  rw [step_of_received_byte hwait hrx]
  exact waitByte_overflow h

end

/-! ## What is stored stays within the capacity -/

theorem KeepsCap.nil (s : State) : KeepsCap s [] := fun cap _ _ => Nat.zero_le cap

/-- D16: of the effects, those that receive or append keep to the capacity, and RT.OPEN and RT.CLOSE empty the buffer. -/
theorem Effect.keepsCap {i : Instr} {s t : State} (h : Effect s i t) : KeepsCap s t.rxbuf := by
  cases h with
  | buffered _ _ _ _ hbuf => exact hbuf
  | received _ _ _ _ _ _ hbuf => exact hbuf
  | opened => exact .nil s
  | closed => exact .nil s
  | closedAgain => exact .nil s
  | _ => exact .refl s

theorem Stay.rxbuf_eq {s t : State} (h : Stay s t) : t.rxbuf = s.rxbuf := by
  cases h <;> rfl

theorem step_keepsCap {s t : State} (h : step s = .next t) : KeepsCap s t.rxbuf := by
  obtain ⟨i, host, -, heffect⟩ | hstay := step_cases h
  · exact heffect.keepsCap
  · exact hstay.rxbuf_eq ▸ KeepsCap.refl s

end Sys2Proof.Machine

open Sys2Proof.Machine

/-- Settles O41: bytes that do not fit are refused, or stop a wait by name; every effect keeps to the capacity. -/
theorem Sys2Proof.overflowIsNeverStored : Obligations.OverflowIsNeverStored := by
  intro bytes b cap s hcap
  refine ⟨fun hover => ?append, fun hover hwait => ?literal, fun hover hwait => ?literalInWait,
    fun i fmt hencode hfmt hover hwait => ?wire, fun rest hwait hrx hover => ?stepInWait, fun hwithin t ht => ?within⟩
  case append => exact fcAppend_overflow (fits_eq_false hcap hover)
  case literal => exact receiveBytes_overflow _ hwait (fits_eq_false (bytes := [b]) hcap hover)
  case literalInWait => exact literal_overflow_in_wait hwait (fits_eq_false hcap hover)
  case wire =>
    obtain ⟨replyOf, hexec⟩ := exec_of_encode_receives (s := s) hencode hfmt
    exact hexec.trans (receiveBytes_overflow replyOf hwait (fits_eq_false hcap hover))
  case stepInWait => exact step_overflow hwait hrx (fits_eq_false hcap hover)
  case within =>
    obtain ⟨i, hexec⟩ | hstep := ht
    · exact (exec_effect hexec).keepsCap cap hcap hwithin
    · exact step_keepsCap hstep cap hcap hwithin
end

section
/-! Proofs about the packet header (41 R121 to R123) and the acknowledgment test (R126): the bytes of fields in range, their checksum,
and the fields of any four bytes. -/

namespace Sys2Proof.Machine

open Sys2Proof.Spec

/-! ## The replies -/

/-- Two replies given in one state are the same when the states after them are. -/
theorem next_withReply_inj {s : State} {r r' : Reply} :
    (.next (s.withReply (some r)) : Result) = .next (s.withReply (some r')) ↔ r = r' := by
  simp [State.withReply]

theorem pkHdrCsum_next (b0 b1 b2 : Byte) (s : State) :
    exec (.pkHdrCsum b0 b1 b2) s = .next (s.withReply (some (.byte (hdrCsum s.config.hdrCsumMode b0 b1 b2)))) := rfl

theorem pkHdrUnpack_next (h0 h1 h2 h3 : Byte) (s : State) :
    exec (.pkHdrUnpack h0 h1 h2 h3) s = .next (s.withReply (some (.header (hdrUnpack h0 h1 h2 h3)))) := rfl

theorem pkHdrPack_refused {seq ack dip rp type length : Nat} (h : hdrPackDomain seq ack dip rp type length = false) (s : State) :
    exec (.pkHdrPack seq ack dip rp type length) s = .next (s.withReply (some .refused)) := by
  rw [exec, execPkHdrPack, h]
  rfl

/-! ## Numbers in range and the fields they are -/

/-- A number below `2 ^ w` is the value of a field of `w` bits. -/
theorem exists_toNat_eq {w n : Nat} (h : n < 2 ^ w) : ∃ v : BitVec w, v.toNat = n :=
  ⟨BitVec.ofNat w n, (BitVec.toNat_ofNat n w).trans (Nat.mod_eq_of_lt h)⟩

/-- A flag's number is the flag. -/
theorem exists_toNat_eq_flag {n : Nat} (h : n ≤ 1) : ∃ flag : Bool, flag.toNat = n :=
  ⟨n == 1, by interval_cases n <;> rfl⟩

theorem toNat_beq_one (flag : Bool) : (flag.toNat == 1) = flag := by
  cases flag <;> rfl

/-- The numbers that PK.HDR_PACK takes are the fields of a header. -/
theorem fields_of_hdrPackDomain {seq ack dip rp type length : Nat} (h : hdrPackDomain seq ack dip rp type length = true) :
    ∃ (q a : Seq) (d r : Bool) (t : BitVec 4) (l : BitVec 12),
      q.toNat = seq ∧ a.toNat = ack ∧ d.toNat = dip ∧ r.toNat = rp ∧ t.toNat = type ∧ l.toNat = length := by
  simp only [hdrPackDomain, decide_eq_true_eq] at h
  obtain ⟨hseq, hack, hdip, hrp, htype, hlength⟩ := h
  obtain ⟨q, hq⟩ := exists_toNat_eq (w := 3) (Nat.lt_succ_of_le hseq)
  obtain ⟨a, ha⟩ := exists_toNat_eq (w := 3) (Nat.lt_succ_of_le hack)
  obtain ⟨d, hd⟩ := exists_toNat_eq_flag hdip
  obtain ⟨r, hr⟩ := exists_toNat_eq_flag hrp
  obtain ⟨t, ht⟩ := exists_toNat_eq (w := 4) (Nat.lt_succ_of_le htype)
  obtain ⟨l, hl⟩ := exists_toNat_eq (w := 12) (Nat.lt_succ_of_le hlength)
  exact ⟨q, a, d, r, t, l, hq, ha, hd, hr, ht, hl⟩

theorem hdrPackDomain_toNat (seq ack : Seq) (dip rp : Bool) (type : BitVec 4) (length : BitVec 12) :
    hdrPackDomain seq.toNat ack.toNat dip.toNat rp.toNat type.toNat length.toNat = true :=
  decide_eq_true ⟨Nat.le_of_lt_succ seq.isLt, Nat.le_of_lt_succ ack.isLt, dip.toNat_le, rp.toNat_le,
    Nat.le_of_lt_succ type.isLt, Nat.le_of_lt_succ length.isLt⟩

theorem pkHdrPack_fields (seq ack : Seq) (dip rp : Bool) (type : BitVec 4) (length : BitVec 12) (s : State) :
    exec (.pkHdrPack seq.toNat ack.toNat dip.toNat rp.toNat type.toNat length.toNat) s =
      .next (s.withReply (some (.bytes (hdrPack s.config.hdrCsumMode seq ack dip rp type length)))) := by
  simp only [exec, execPkHdrPack, hdrPackDomain_toNat, if_true, toNat_beq_one, BitVec.ofNat_toNat, BitVec.setWidth_eq, answer]

/-! ## The layout (30 R63 to R65) -/

theorem headerBytes_layout (seq ack : Seq) (dip rp : Bool) (type : BitVec 4) (length : BitVec 12) :
    HeaderBytes seq.toNat ack.toNat dip.toNat rp.toNat type.toNat length.toNat
      (headerByte0 seq ack dip rp) (headerByte1 type length) (headerByte2 length) := by
  obtain ⟨-, -, -, -, hvalue⟩ := headerByte0_fields seq ack dip rp
  exact ⟨hvalue, headerByte1_toNat type length, headerByte2_toNat length⟩

theorem hdrUnpack_layout (h0 h1 h2 h3 : Byte) :
    HeaderBytes (hdrUnpack h0 h1 h2 h3).seq.toNat (hdrUnpack h0 h1 h2 h3).ack.toNat (hdrUnpack h0 h1 h2 h3).dip.toNat
      (hdrUnpack h0 h1 h2 h3).rp.toNat (hdrUnpack h0 h1 h2 h3).type.toNat (hdrUnpack h0 h1 h2 h3).length.toNat h0 h1 h2 := by
  have hlayout (h : Header) := headerBytes_layout h.seq h.ack h.dip h.rp h.type h.length
  simpa only [hdrUnpack, headerByte0_of_fields, headerByte1_of_fields, headerByte2_of_fields] using
    hlayout (hdrUnpack h0 h1 h2 h3)

theorem pkHdrUnpack_headerBytes (h : Header) (s : State) :
    exec (.pkHdrUnpack (headerByte0 h.seq h.ack h.dip h.rp) (headerByte1 h.type h.length) (headerByte2 h.length) h.hcs) s =
      .next (s.withReply (some (.header h))) := by
  rw [pkHdrUnpack_next, hdrUnpack_headerBytes]

/-- Packing the fields of any four bytes gives three of them back, and the checksum of these. -/
theorem hdrPack_hdrUnpack (mode : CsumMode) (h0 h1 h2 h3 : Byte) :
    hdrPack mode (hdrUnpack h0 h1 h2 h3).seq (hdrUnpack h0 h1 h2 h3).ack (hdrUnpack h0 h1 h2 h3).dip (hdrUnpack h0 h1 h2 h3).rp
      (hdrUnpack h0 h1 h2 h3).type (hdrUnpack h0 h1 h2 h3).length = [h0, h1, h2, hdrCsum mode h0 h1 h2] := by
  simp only [hdrPack, hdrUnpack, headerByte0_of_fields, headerByte1_of_fields, headerByte2_of_fields]

/-! ## The checksum (41 R121) -/

/-- Two turns of R121's `while` bring the sum of three bytes into a byte; each keeps it modulo 255 and keeps it from 0. -/
theorem foldCarry_twice {n : Nat} (h : n ≤ 765) :
    foldCarry (foldCarry n) ≤ 255 ∧ foldCarry (foldCarry n) % 255 = n % 255 ∧ (foldCarry (foldCarry n) = 0 ↔ n = 0) := by
  unfold foldCarry
  split_ifs <;> omega

theorem hdrCsum_ocsum_toNat (b0 b1 b2 : Byte) :
    (hdrCsum .ocsum b0 b1 b2).toNat = foldCarry (foldCarry (b0.toNat + b1.toNat + b2.toNat)) := by
  have hfold := (foldCarry_twice (n := b0.toNat + b1.toNat + b2.toNat) (by omega)).1
  exact (BitVec.toNat_ofNat ..).trans (Nat.mod_eq_of_lt (Nat.lt_succ_of_le hfold))

theorem hdrCsum_notsum_toNat (b0 b1 b2 : Byte) :
    (hdrCsum .notsum b0 b1 b2).toNat = 255 - (b0.toNat + b1.toNat + b2.toNat) % 256 := by
  simp [hdrCsum]

theorem hdrCsum_negsum_toNat (b0 b1 b2 : Byte) :
    (hdrCsum .negsum b0 b1 b2).toNat = (256 - (b0.toNat + b1.toNat + b2.toNat) % 256) % 256 := by
  simp [hdrCsum]

/-! ## The acknowledgment test (41 R126) -/

theorem pkAckAccepts_next {a q : Nat} (ha : a ≤ 7) (hq : q ≤ 7) (s : State) :
    exec (.pkAckAccepts a q) s = .next (s.withReply (some (.truth (decide (a = (q + 1) % 8))))) := by
  have hdomain : ackDomain a q = true := decide_eq_true ⟨ha, hq⟩
  have htest : ackAccepts (BitVec.ofNat 3 a) (BitVec.ofNat 3 q) = decide (a = (q + 1) % 8) := by
    rw [ackAccepts, beq_eq_decide, decide_eq_decide, ← BitVec.toNat_inj, BitVec.toNat_add]
    simp only [BitVec.toNat_ofNat]
    omega
  rw [exec, execPkAckAccepts, if_pos hdomain, htest, answer]

end Sys2Proof.Machine

open Sys2Proof.Spec Sys2Proof.Machine

/-- Settles O14: by the mode; the end-around carry keeps a sum modulo 255. -/
theorem Sys2Proof.pkHdrCsumSums : Obligations.PkHdrCsumSums := by
  intro b0 b1 b2 s
  refine ⟨_, pkHdrCsum_next b0 b1 b2 s, fun hmode => ?ocsum, fun hmode => ?notsum, fun hmode => ?negsum⟩
  case ocsum =>
    obtain ⟨-, hmod, hzero⟩ := foldCarry_twice (n := b0.toNat + b1.toNat + b2.toNat) (by omega)
    rw [hmode, hdrCsum_ocsum_toNat]
    exact ⟨hzero.mpr, fun hpos => ⟨by omega, hmod⟩⟩
  case notsum =>
    rw [hmode, hdrCsum_notsum_toNat]
    omega
  case negsum =>
    rw [hmode, hdrCsum_negsum_toNat]
    omega

/-- Settles O15: numbers in range are the fields of a header, whose bytes lie where R63 to R65 put them. -/
theorem Sys2Proof.pkHdrPackLaysOutTheFields : Obligations.PkHdrPackLaysOutTheFields := by
  intro seq ack dip rp type length s
  refine ⟨fun hseq hack hdip hrp htype hlength => ?inRange, fun hout => ?refused⟩
  case inRange =>
    obtain ⟨q, a, d, r, t, l, rfl, rfl, rfl, rfl, rfl, rfl⟩ :=
      fields_of_hdrPackDomain (decide_eq_true ⟨hseq, hack, hdip, hrp, htype, hlength⟩)
    exact ⟨_, _, _, _, pkHdrPack_fields q a d r t l s, headerBytes_layout q a d r t l, pkHdrCsum_next ..⟩
  case refused => exact pkHdrPack_refused (decide_eq_false hout) s

/-- Settles O16: header fields and header bytes determine each other; what PK.HDR_PACK replies bytes for is in its domain. -/
theorem Sys2Proof.pkHdrUnpackInvertsPack : Obligations.PkHdrUnpackInvertsPack := by
  refine ⟨fun h0 h1 h2 h3 s => ⟨_, pkHdrUnpack_next h0 h1 h2 h3 s, hdrUnpack_layout h0 h1 h2 h3, rfl, ?packsBack⟩,
    fun seq ack dip rp type length b0 b1 b2 b3 s hpack => ?unpacksBack⟩
  case packsBack =>
    rw [pkHdrPack_fields, hdrPack_hdrUnpack, pkHdrCsum_next]
    exact next_withReply_inj.trans (Iff.trans (by simp) next_withReply_inj.symm)
  case unpacksBack =>
    cases hdomain : hdrPackDomain seq ack dip rp type length with
    | false =>
      rw [pkHdrPack_refused hdomain] at hpack
      cases next_withReply_inj.mp hpack
    | true =>
      obtain ⟨q, a, d, r, t, l, rfl, rfl, rfl, rfl, rfl, rfl⟩ := fields_of_hdrPackDomain hdomain
      rw [pkHdrPack_fields] at hpack
      have hbytes := Reply.bytes.inj (next_withReply_inj.mp hpack)
      simp only [hdrPack, List.cons.injEq, and_true] at hbytes
      obtain ⟨rfl, rfl, rfl, hb3⟩ := hbytes
      exact ⟨⟨q, a, d, r, t, l, b3⟩, pkHdrUnpack_headerBytes ⟨q, a, d, r, t, l, b3⟩ s, rfl, rfl, rfl, rfl, rfl, rfl, rfl⟩

/-- Settles O19: in 3 bits the successor is the one modulo 8. -/
theorem Sys2Proof.pkAckAcceptsTheSuccessor : Obligations.PkAckAcceptsTheSuccessor := by
  intro q s hq
  have hsucc : (q + 1) % 8 ≤ 7 := Nat.le_of_lt_succ (Nat.mod_lt _ (by decide))
  refine ⟨fun a ha => pkAckAccepts_next ha hq s, (q + 1) % 8, hsucc, ?accepted, fun b hb haccepted => ?only⟩
  case accepted => exact (pkAckAccepts_next hsucc hq s).trans (by rw [decide_eq_true rfl]; rfl)
  case only =>
    rw [pkAckAccepts_next hb hq] at haccepted
    exact of_decide_eq_true (Reply.truth.inj (next_withReply_inj.mp haccepted))
end

section
/-! Proofs about the CRC (41 R120): the model's loop in numbers, its loop-free step for the polynomial 0x1021, and that with an odd
polynomial no two messages that differ in one byte have the same CRC. -/

namespace Sys2Proof.Machine

open Sys2Proof.Spec

theorem pkCrc16_next (bytes : List Byte) (start : Option Hword) (s : State) :
    exec (.pkCrc16 bytes start) s =
      .next (s.withReply (some (.value16 (crc16 s.config.crcPoly bytes (start.getD crcInit))))) := rfl

/-! ## The loop in numbers -/

theorem crcShift_toNat (poly c : Hword) : (crcShift poly c).toNat = crcTurn poly.toNat c.toNat := by
  have hxor (n : Nat) : (n ^^^ poly.toNat) % 2 ^ 16 = n % 2 ^ 16 ^^^ poly.toNat := by
    rw [Nat.xor_mod_two_pow, Nat.mod_eq_of_lt poly.isLt]
  unfold crcShift crcTurn
  rw [BitVec.getLsbD]
  split
  · rw [BitVec.toNat_xor, BitVec.toNat_shiftLeft]
    exact (hxor _).symm
  · exact BitVec.toNat_shiftLeft

theorem crcShifts_toNat (poly : Hword) (n : Nat) (c : Hword) :
    (crcShifts poly n c).toNat = (crcTurn poly.toNat)^[n] c.toNat := by
  induction n generalizing c with
  | zero => rfl
  | succ n ih => rw [crcShifts, ih, crcShift_toNat, Function.iterate_succ_apply]

/-- A byte in the high half of 16 bits. -/
theorem highByte_toNat (b : Byte) : (b.setWidth 16 <<< 8).toNat = b.toNat <<< 8 := by
  have := b.isLt
  simp only [BitVec.toNat_shiftLeft, BitVec.toNat_setWidth, Nat.shiftLeft_eq]
  omega

theorem crcByte_toNat (poly c : Hword) (b : Byte) : (crcByte poly c b).toNat = crcStep poly.toNat c.toNat b := by
  rw [crcByte, crcShifts_toNat, BitVec.toNat_xor, highByte_toNat, crcStep]

theorem crc16_toNat (poly : Hword) (bytes : List Byte) (c : Hword) :
    (crc16 poly bytes c).toNat = crc poly.toNat bytes c.toNat := by
  induction bytes generalizing c with
  | nil => rfl
  | cons b bs ih => rw [crc16, ih, crcByte_toNat, crc, crc, List.foldl_cons]

/-! ## The loop-free step -/

/-- One line of R120's loop-free step: exclusive-or with a function of the value itself. -/
def xorOwn (f : Hword → Hword) (c : Hword) : Hword := c ^^^ f c

theorem xorOwn_xor {f : Hword → Hword} (hf : ∀ a b, f (a ^^^ b) = f a ^^^ f b) (a b : Hword) :
    xorOwn f (a ^^^ b) = xorOwn f a ^^^ xorOwn f b := by
  simp only [xorOwn, hf]
  ac_rfl

/-- What the loop-free step does behind the exclusive-or of the byte. -/
def loopFreeTail (c : Hword) : Hword :=
  xorOwn (fun c => (c &&& 0xFF#16) <<< 5) (xorOwn (fun c => c <<< 12) (xorOwn (fun c => (c &&& 0xFF#16) >>> 4) c))

theorem and_xor_eq (a b mask : Hword) : (a ^^^ b) &&& mask = (a &&& mask) ^^^ (b &&& mask) := by
  ext i hi
  simp [Bool.and_xor_distrib_right]

/-- Masks and shifts are linear, so the whole is. -/
theorem loopFreeTail_xor (a b : Hword) : loopFreeTail (a ^^^ b) = loopFreeTail a ^^^ loopFreeTail b := by
  have right4 (x y : Hword) : ((x ^^^ y) &&& 0xFF#16) >>> 4 = ((x &&& 0xFF#16) >>> 4) ^^^ ((y &&& 0xFF#16) >>> 4) := by
    rw [and_xor_eq, BitVec.ushiftRight_xor_distrib]
  have left12 (x y : Hword) : (x ^^^ y) <<< 12 = (x <<< 12) ^^^ (y <<< 12) := BitVec.shiftLeft_xor_distrib ..
  have left5 (x y : Hword) : ((x ^^^ y) &&& 0xFF#16) <<< 5 = ((x &&& 0xFF#16) <<< 5) ^^^ ((y &&& 0xFF#16) <<< 5) := by
    rw [and_xor_eq, BitVec.shiftLeft_xor_distrib]
  rw [loopFreeTail, xorOwn_xor right4, xorOwn_xor left12, xorOwn_xor left5, loopFreeTail, loopFreeTail]

/-- Eight shifts of a high byte: the table of the 256 bytes. -/
theorem crcShifts_highByte (b : Byte) : crcShifts 0x1021#16 8 (b.setWidth 16 <<< 8) = loopFreeTail (b.setWidth 16) := by
  revert b
  decide +kernel

/-- Eight shifts of a low byte. -/
theorem crcShifts_lowByte (b : Byte) : crcShifts 0x1021#16 8 (b.setWidth 16) = loopFreeTail (b.setWidth 16 <<< 8) := by
  revert b
  decide +kernel

theorem bytes_of_hword (c : Hword) :
    c = ((c.extractLsb' 8 8).setWidth 16 <<< 8) ^^^ (c.extractLsb' 0 8).setWidth 16 := by
  ext i hi
  interval_cases i <;> simp

theorem swapBytes_eq (c : Hword) :
    (c >>> 8) ||| ((c <<< 8) &&& 0xFF00#16) = (c.extractLsb' 8 8).setWidth 16 ^^^ ((c.extractLsb' 0 8).setWidth 16 <<< 8) := by
  ext i hi
  interval_cases i <;> simp

theorem crcByte_loopFree (c : Hword) (b : Byte) : crcByte 0x1021#16 c b = crcStepLoopFree c b := by
  have hhigh : ((c.extractLsb' 8 8) ^^^ b).setWidth 16 = (c.extractLsb' 8 8).setWidth 16 ^^^ b.setWidth 16 :=
    BitVec.setWidth_xor ..
  calc crcByte 0x1021#16 c b
      = crcShifts 0x1021#16 8 ((c.extractLsb' 8 8 ^^^ b).setWidth 16 <<< 8 ^^^ (c.extractLsb' 0 8).setWidth 16) := by
        conv_lhs => rw [crcByte, bytes_of_hword c]
        rw [hhigh, BitVec.shiftLeft_xor_distrib]
        ac_rfl
    _ = loopFreeTail ((c.extractLsb' 8 8 ^^^ b).setWidth 16 ^^^ (c.extractLsb' 0 8).setWidth 16 <<< 8) := by
        rw [crcShifts_xor, crcShifts_highByte, crcShifts_lowByte, loopFreeTail_xor]
    _ = loopFreeTail (((c >>> 8) ||| ((c <<< 8) &&& 0xFF00#16)) ^^^ b.setWidth 16) := by
        rw [swapBytes_eq, hhigh]
        ac_rfl
    _ = crcStepLoopFree c b := rfl

/-! ## Odd polynomials -/

section
variable {poly : Hword} (hpoly : poly.getLsbD 0 = true)
include hpoly

/-- The bit that a shift moves out of the register comes back in bit 0, so no shift loses one. -/
theorem crcShift_injective : Function.Injective (crcShift poly) := by
  have out (c : Hword) : (crcShift poly c).getLsbD 0 = c.getLsbD 15 := by
    unfold crcShift
    split <;> simp_all
  have low (a b : Hword) (h : a <<< 1 = b <<< 1) (htop : a.getLsbD 15 = b.getLsbD 15) : a = b := by
    apply BitVec.eq_of_getLsbD_eq
    intro i hi
    obtain rfl | hlow : i = 15 ∨ i + 1 < 16 := by omega
    · exact htop
    · have hbit (c : Hword) : (c <<< 1).getLsbD (i + 1) = c.getLsbD i := by simp [hlow, BitVec.getLsbD_eq_getElem hi]
      rw [← hbit a, h, hbit b]
  intro a b h
  have htop : a.getLsbD 15 = b.getLsbD 15 := by rw [← out, ← out, h]
  unfold crcShift at h
  rw [htop] at h
  split at h
  · exact low a b ((BitVec.xor_left_inj _).mp h) htop
  · exact low a b h htop

theorem crcShifts_injective (n : Nat) : Function.Injective (crcShifts poly n) := by
  induction n with
  | zero => exact Function.injective_id
  | succ n ih => exact ih.comp (crcShift_injective hpoly)

theorem crc16_injective_start (bytes : List Byte) : Function.Injective (crc16 poly bytes) := by
  induction bytes with
  | nil => exact Function.injective_id
  | cons b bs ih =>
    intro x y h
    exact (BitVec.xor_left_inj _).mp (crcShifts_injective hpoly 8 (ih h))

/-- With an odd polynomial a changed byte changes the CRC. -/
theorem crc16_ne_of_byte_ne {x y : Byte} (hxy : x ≠ y) (before after : List Byte) (start : Hword) :
    crc16 poly (before ++ x :: after) start ≠ crc16 poly (before ++ y :: after) start := by
  intro h
  rw [crc16_append, crc16_append] at h
  have hbyte : crcByte poly (crc16 poly before start) x = crcByte poly (crc16 poly before start) y :=
    crc16_injective_start hpoly after h
  have hhigh : x.setWidth 16 <<< 8 = y.setWidth 16 <<< 8 :=
    (BitVec.xor_right_inj _).mp (crcShifts_injective hpoly 8 hbyte)
  have hvalue := congrArg BitVec.toNat hhigh
  rw [highByte_toNat, highByte_toNat, Nat.shiftLeft_eq, Nat.shiftLeft_eq] at hvalue
  exact hxy (BitVec.eq_of_toNat_eq (by omega))

end

end Sys2Proof.Machine

open Sys2Proof.Spec Sys2Proof.Machine

/-- Settles O13: each turn is the rule's on numbers; for 0x1021 eight turns on either half of the register are the loop-free step. -/
theorem Sys2Proof.pkCrc16FollowsTheLoops : Obligations.PkCrc16FollowsTheLoops := by
  intro a b start s
  refine ⟨⟨_, pkCrc16_next a start s, crc16_toNat .., ?incremental⟩, fun c => pkCrc16_next [] (some c) s,
    fun hpoly c x => ?loopFree⟩
  case incremental =>
    rw [pkCrc16_next, pkCrc16_next, crc16_append]
    rfl
  case loopFree =>
    rw [pkCrc16_next, hpoly, ← crcByte_loopFree]
    rfl
end

section
/-! Proofs about built packets (41 R124, R125, R127): PK.BUILD as a header, a payload and their CRC in a frame, PK.DECODE's checks on a
raw packet cut into a body and its trailer, and one flipped bit of the body. -/

namespace Sys2Proof.Machine

open Sys2Proof.Spec

/-! ## Building (41 R124) -/

/-- The header of a built packet. -/
def packetHeader (cfg : Config) (type : BitVec 4) (payload : List Byte) (seq : Seq) : Header where
  seq := seq
  ack := txAckOf cfg seq
  dip := cfg.txDip
  rp := cfg.txRp
  type := type
  length := BitVec.ofNat 12 payload.length
  hcs := hdrCsum cfg.hdrCsumMode (headerByte0 seq (txAckOf cfg seq) cfg.txDip cfg.txRp)
    (headerByte1 type (BitVec.ofNat 12 payload.length)) (headerByte2 (BitVec.ofNat 12 payload.length))

theorem packetBody_eq (cfg : Config) (type : BitVec 4) (payload : List Byte) (seq : Seq) :
    packetBody cfg type payload seq = headerBytes (packetHeader cfg type payload seq) ++ payload := rfl

@[simp] theorem length_packetBody (cfg : Config) (type : BitVec 4) (payload : List Byte) (seq : Seq) :
    (packetBody cfg type payload seq).length = payload.length + 4 := rfl

@[simp] theorem length_rawPacketOf (cfg : Config) (type : BitVec 4) (payload : List Byte) (seq : Seq) :
    (rawPacketOf cfg type payload seq).length = payload.length + 6 := by
  simp [rawPacketOf, crcTrailer]

/-- The payload's length fits the length field. -/
theorem packetHeader_length_toNat {payload : List Byte} (h : payload.length ≤ 512) (cfg : Config) (type : BitVec 4) (seq : Seq) :
    (packetHeader cfg type payload seq).length.toNat = payload.length :=
  (BitVec.toNat_ofNat ..).trans (Nat.mod_eq_of_lt (by omega))

theorem pkHdrPack_packetHeader {payload : List Byte} (h : payload.length ≤ 512) (type : BitVec 4) (seq : Seq) (s : State) :
    exec (.pkHdrPack seq.toNat (txAckOf s.config seq).toNat s.config.txDip.toNat s.config.txRp.toNat type.toNat payload.length) s =
      .next (s.withReply (some (.bytes (headerBytes (packetHeader s.config type payload seq))))) := by
  have hfields := pkHdrPack_fields seq (txAckOf s.config seq) s.config.txDip s.config.txRp type (BitVec.ofNat 12 payload.length) s
  have hlength : (BitVec.ofNat 12 payload.length).toNat = payload.length := packetHeader_length_toNat h s.config type seq
  rw [hlength] at hfields
  exact hfields

theorem buildFrame_eq (cfg : Config) (type : BitVec 4) (payload : List Byte) (seq : Seq) :
    buildFrame cfg type payload seq = wireFrame (rawPacketOf cfg type payload seq) := by
  rw [buildFrame, encodeEscapes_eq_escapedAll]
  rfl

/-- The numbers that PK.BUILD takes are a type and a sequence number. -/
theorem fields_of_buildDomain {type seq : Nat} {payload : List Byte} (h : buildDomain type payload seq = true) :
    ∃ (t : BitVec 4) (q : Seq), t.toNat = type ∧ q.toNat = seq := by
  simp only [buildDomain, sendDomain, Bool.and_eq_true, decide_eq_true_eq] at h
  obtain ⟨⟨htype, -⟩, hseq⟩ := h
  obtain ⟨t, ht⟩ := exists_toNat_eq (w := 4) (Nat.lt_succ_of_le htype)
  obtain ⟨q, hq⟩ := exists_toNat_eq (w := 3) (Nat.lt_succ_of_le hseq)
  exact ⟨t, q, ht, hq⟩

theorem buildDomain_iff {type seq : Nat} {payload : List Byte} :
    buildDomain type payload seq = true ↔ type ≤ 15 ∧ payload.length ≤ 512 ∧ seq ≤ 7 := by
  simp only [buildDomain, sendDomain, Bool.and_eq_true, decide_eq_true_eq, and_assoc]
  exact Iff.rfl

theorem pkBuild_next {type : BitVec 4} {payload : List Byte} {seq : Seq}
    (h : buildDomain type.toNat payload seq.toNat = true) (s : State) :
    exec (.pkBuild type.toNat payload seq.toNat) s =
      .next (s.withReply (some (.bytes (wireFrame (rawPacketOf s.config type payload seq))))) := by
  simp only [exec, execPkBuild, h, if_true, buildFrame_eq, BitVec.ofNat_toNat, BitVec.setWidth_eq, answer]

theorem pkBuild_refused {type seq : Nat} {payload : List Byte} (h : buildDomain type payload seq = false) (s : State) :
    exec (.pkBuild type payload seq) s = .next (s.withReply (some .refused)) := by
  rw [exec, execPkBuild, h]
  rfl

/-- The trailer's two bytes in R124's words. -/
theorem crcTrailer_eq (c : Hword) : crcTrailer c = [BitVec.ofNat 8 (c.toNat % 256), BitVec.ofNat 8 (c.toNat / 256)] := by
  have hlow : c.extractLsb' 0 8 = BitVec.ofNat 8 (c.toNat % 256) := by
    apply BitVec.eq_of_toNat_eq
    simp
  have hhigh : c.extractLsb' 8 8 = BitVec.ofNat 8 (c.toNat / 256) := by
    apply BitVec.eq_of_toNat_eq
    simp [Nat.shiftRight_eq_div_pow]
  rw [crcTrailer, hlow, hhigh]

/-- Two markers, and one or two wire bytes for each raw byte. -/
theorem length_wireFrame_bounds (raw : List Byte) :
    raw.length + 2 ≤ (wireFrame raw).length ∧ (wireFrame raw).length ≤ 2 * raw.length + 2 := by
  obtain ⟨hlower, hupper⟩ := length_escapedAll_bounds raw
  simp only [wireFrame, List.length_cons, List.length_append, List.length_nil]
  omega

/-! ## Decoding (41 R125) -/

theorem pkDecode_wireFrame (raw : List Byte) (s : State) :
    exec (.pkDecode (wireFrame raw)) s = .next (s.withReply (some (packetReply (decodeRaw s.config raw)))) := by
  rw [← decodeContent_escapedAll]
  exact exec_pkDecode_delimit (escapedAll raw) s

theorem pkDecode_refused {f : List Byte} (h : ∀ content, f ≠ delimit content) (s : State) :
    exec (.pkDecode f) s = .next (s.withReply (some .refused)) := by
  have hdomain : ¬ frameDomain f = true := fun hf => h _ (delimit_frameContent hf).symm
  rw [exec, execPkDecode, if_neg hdomain, refuse, answer]

theorem decodeContent_of_error {content : List Byte} {e : Err} (h : unescaped content = .error e) (cfg : Config) :
    decodeContent cfg content = .error .malformedEscape := by
  rw [unescaped_eq_decodeEscapes] at h
  rw [decodeContent, h, unescape_error (p := false) h]

theorem decodeContent_of_ok {content u : List Byte} (h : unescaped content = .ok u) (cfg : Config) :
    decodeContent cfg content = decodeRaw cfg u := by
  rw [unescaped_eq_decodeEscapes] at h
  rw [decodeContent, h]

theorem decodeRaw_short {u : List Byte} (h : u.length < 6) (cfg : Config) : decodeRaw cfg u = .error .truncatedPacket :=
  if_pos h

/-- The header that stands at the front of a body. -/
def bodyHeader (body : List Byte) : Header :=
  hdrUnpack (body.getD 0 0#8) (body.getD 1 0#8) (body.getD 2 0#8) (body.getD 3 0#8)

theorem bodyHeader_headerBytes (h : Header) (payload : List Byte) : bodyHeader (headerBytes h ++ payload) = h :=
  hdrUnpack_headerBytes h

/-- The CRC that a trailer's bytes stand for, the low byte first (30 R66). -/
def trailerValue (lo hi : Byte) : Hword := BitVec.ofNat 16 (lo.toNat + 256 * hi.toNat)

theorem trailerValue_toNat (lo hi : Byte) : (trailerValue lo hi).toNat = lo.toNat + 256 * hi.toNat :=
  (BitVec.toNat_ofNat ..).trans (Nat.mod_eq_of_lt (by omega))

theorem crcTrailer_trailerValue (lo hi : Byte) : crcTrailer (trailerValue lo hi) = [lo, hi] := by
  have hlow : BitVec.ofNat 8 ((lo.toNat + 256 * hi.toNat) % 256) = lo :=
    BitVec.eq_of_toNat_eq ((BitVec.toNat_ofNat ..).trans (by omega))
  have hhigh : BitVec.ofNat 8 ((lo.toNat + 256 * hi.toNat) / 256) = hi :=
    BitVec.eq_of_toNat_eq ((BitVec.toNat_ofNat ..).trans (by omega))
  rw [crcTrailer_eq, trailerValue_toNat, hlow, hhigh]

theorem rawCrc_append (body : List Byte) (c : Hword) : rawCrc (body ++ crcTrailer c) = c := by
  have hlast : (body ++ crcTrailer c).getD ((body ++ crcTrailer c).length - 1) 0#8 = c.extractLsb' 8 8 := by simp [crcTrailer]
  have hbefore : (body ++ crcTrailer c).getD ((body ++ crcTrailer c).length - 2) 0#8 = c.extractLsb' 0 8 := by simp [crcTrailer]
  apply BitVec.eq_of_toNat_eq
  rw [rawCrc, hlast, hbefore, BitVec.toNat_cast, BitVec.toNat_append, Nat.shiftLeft_eq, Nat.mul_comm,
    ← Nat.two_pow_add_eq_or_of_lt (BitVec.isLt _), BitVec.extractLsb'_toNat, BitVec.extractLsb'_toNat, Nat.shiftRight_zero,
    Nat.shiftRight_eq_div_pow]
  omega

section
variable {cfg : Config} {body : List Byte} {c : Hword} (hbody : 4 ≤ body.length)
include hbody

/-- R125's checks behind the minimum size, on a body and its trailer. -/
theorem decodeRaw_append :
    decodeRaw cfg (body ++ crcTrailer c) =
      if (bodyHeader body).length.toNat ≠ body.length - 4 then .error .truncatedPacket
      else if (bodyHeader body).dip && crc16 cfg.crcPoly body crcInit != c then .error .crcMismatch
      else .ok { header := bodyHeader body, payload := body.drop 4, crc := c } := by
  have hmin : ¬ (body ++ crcTrailer c).length < minPkt := by
    rw [List.length_append, crcTrailer, minPkt, hdrLen, crcLen]
    simpa using hbody
  have hrest : (body ++ crcTrailer c).length - minPkt = body.length - 4 := by simp [minPkt, hdrLen, crcLen, crcTrailer]
  have hcut : (body ++ crcTrailer c).take ((body ++ crcTrailer c).length - crcLen) = body := by simp [crcLen, crcTrailer]
  have hfront (j : Nat) (hj : j < 4) : (body ++ crcTrailer c).getD j 0#8 = body.getD j 0#8 :=
    List.getD_append _ _ _ _ (by omega)
  have hheader : hdrUnpack ((body ++ crcTrailer c).getD 0 0#8) ((body ++ crcTrailer c).getD 1 0#8) ((body ++ crcTrailer c).getD 2 0#8)
      ((body ++ crcTrailer c).getD 3 0#8) = bodyHeader body := by
    rw [hfront 0 (by decide), hfront 1 (by decide), hfront 2 (by decide), hfront 3 (by decide), bodyHeader]
  have hpayload : ((body ++ crcTrailer c).drop hdrLen).take (body.length - 4) = body.drop 4 := by
    rw [hdrLen, List.drop_append_of_le_length hbody, List.take_left' (List.length_drop ..)]
  simp only [decodeRaw, if_neg hmin, hheader, hrest, hcut, rawCrc_append]
  by_cases hlength : (bodyHeader body).length.toNat = body.length - 4
  · rw [hlength, hpayload]
  · rw [if_pos hlength, if_pos hlength]

theorem decodeRaw_wrong_length (hlength : (bodyHeader body).length.toNat ≠ body.length - 4) :
    decodeRaw cfg (body ++ crcTrailer c) = .error .truncatedPacket := by
  rw [decodeRaw_append hbody, if_pos hlength]

variable (hlength : (bodyHeader body).length.toNat = body.length - 4)
include hlength

theorem decodeRaw_wrong_crc (hdip : (bodyHeader body).dip = true) (hcrc : crc16 cfg.crcPoly body crcInit ≠ c) :
    decodeRaw cfg (body ++ crcTrailer c) = .error .crcMismatch := by
  rw [decodeRaw_append hbody, if_neg (not_not.mpr hlength), hdip, Bool.true_and, if_pos (bne_iff_ne.mpr hcrc)]

theorem decodeRaw_ok (hcrc : (bodyHeader body).dip = true → crc16 cfg.crcPoly body crcInit = c) :
    decodeRaw cfg (body ++ crcTrailer c) =
      .ok { header := bodyHeader body, payload := body.drop 4, crc := c } := by
  rw [decodeRaw_append hbody, if_neg (not_not.mpr hlength), if_neg]
  simpa using hcrc

end

section
variable {payload : List Byte} (hpayload : payload.length ≤ 512) (cfg : Config) (type : BitVec 4) (seq : Seq)

theorem bodyHeader_packetBody : bodyHeader (packetBody cfg type payload seq) = packetHeader cfg type payload seq := by
  rw [packetBody_eq, bodyHeader_headerBytes]

include hpayload

theorem length_field_packetBody :
    (bodyHeader (packetBody cfg type payload seq)).length.toNat = (packetBody cfg type payload seq).length - 4 := by
  rw [bodyHeader_packetBody, length_packetBody, Nat.add_sub_cancel, packetHeader_length_toNat hpayload]

/-- R127 (a): the raw packet of a built packet decodes to its header and payload. -/
theorem decodeRaw_rawPacketOf :
    ∃ c, decodeRaw cfg (rawPacketOf cfg type payload seq) =
      .ok { header := packetHeader cfg type payload seq, payload := payload, crc := c } := by
  have hdecode := decodeRaw_ok (cfg := cfg) (Nat.le_add_left 4 _) (length_field_packetBody hpayload cfg type seq) fun _ => rfl
  exact ⟨_, bodyHeader_packetBody cfg type seq ▸ hdecode⟩

end

/-! ## One flipped bit (41 R127) -/

section
variable {i : Nat}

/-- The flipped bit is a bit of the byte. -/
theorem flip_mask_ne_zero (hi : i < 8) : 1#8 <<< i ≠ 0#8 := by
  interval_cases i <;> decide

theorem flip_ne (hi : i < 8) (b : Byte) : b ^^^ 1#8 <<< i ≠ b :=
  fun h => flip_mask_ne_zero hi (xor_left_eq_self_iff.mp h)

theorem flip_bit6 (hi : i < 8) (b : Byte) : (b ^^^ 1#8 <<< i).getLsbD 6 = (b.getLsbD 6 ^^ decide (i = 6)) := by
  have hmask : (1#8 <<< i).getLsbD 6 = decide (i = 6) := by
    interval_cases i <;> rfl
  rw [BitVec.getLsbD_xor, hmask]

/-- The high nibble of a byte is changed by a flip of one of its own bits only. -/
theorem flip_high_nibble (hi : i < 8) (b : Byte) : (b ^^^ 1#8 <<< i).toNat / 16 = b.toNat / 16 ↔ i < 4 := by
  have hnibble (x : Byte) : x.toNat / 16 = (x >>> 4).toNat := by
    rw [BitVec.toNat_ushiftRight, Nat.shiftRight_eq_div_pow]
  have hmask : (1#8 <<< i) >>> 4 = 0#8 ↔ i < 4 := by
    interval_cases i <;> decide
  rw [hnibble, hnibble, BitVec.toNat_inj, BitVec.ushiftRight_xor_distrib, xor_left_eq_self_iff]
  exact hmask

theorem flipBit_split (before after : List Byte) (b : Byte) (i : Nat) :
    flipBit (before ++ b :: after) before.length i = before ++ (b ^^^ 1#8 <<< i) :: after := by
  simp [flipBit, List.modify_eq_take_cons_drop]

@[simp] theorem length_flipBit (raw : List Byte) (k i : Nat) : (flipBit raw k i).length = raw.length := List.length_modify ..

variable {body : List Byte} {k : Nat} (hk : k < body.length)
include hk

theorem exists_split_at : ∃ before b after, body = before ++ b :: after ∧ before.length = k :=
  ⟨body.take k, body[k], body.drop (k + 1), by simp, List.length_take_of_le hk.le⟩

theorem flipBit_append (after : List Byte) (i : Nat) : flipBit (body ++ after) k i = flipBit body k i ++ after := by
  obtain ⟨front, b, back, rfl, rfl⟩ := exists_split_at hk
  rw [flipBit_split, List.append_assoc, List.cons_append, flipBit_split, List.append_assoc, List.cons_append]

theorem getD_flipBit (i j : Nat) :
    (flipBit body k i).getD j 0#8 = if k = j then body.getD j 0#8 ^^^ 1#8 <<< i else body.getD j 0#8 := by
  rw [flipBit, List.getD_eq_getElem?_getD, List.getElem?_modify]
  by_cases hkj : k = j
  · subst hkj
    simp [hk]
  · simp [hkj]

variable (hi : i < 8)
include hi

theorem dip_flipBit : (bodyHeader (flipBit body k i)).dip = ((bodyHeader body).dip ^^ decide (k = 0 ∧ i = 6)) := by
  have hdip (l : List Byte) : (bodyHeader l).dip = (l.getD 0 0#8).getLsbD 6 := rfl
  rw [hdip, hdip, getD_flipBit hk]
  by_cases hk0 : k = 0
  · rw [if_pos hk0, flip_bit6 hi, decide_eq_decide.mpr (and_iff_right hk0).symm]
  · simp [hk0]

/-- The length field stands in the high nibble of byte 1 and in byte 2 (30 R64). -/
theorem length_field_flipBit_eq_iff :
    (bodyHeader (flipBit body k i)).length.toNat = (bodyHeader body).length.toNat ↔ ¬ ((k = 1 ∧ 4 ≤ i) ∨ k = 2) := by
  have hfield (l : List Byte) :
      (bodyHeader l).length.toNat = 16 * (l.getD 2 0#8).toNat + (l.getD 1 0#8).toNat / 16 := lengthField_toNat ..
  rw [hfield, hfield, getD_flipBit hk, getD_flipBit hk]
  by_cases hk1 : k = 1
  · have hnibble := flip_high_nibble hi (body.getD 1 0#8)
    rw [if_pos hk1, if_neg (by omega)]
    omega
  by_cases hk2 : k = 2
  · have hbyte := BitVec.toNat_inj.not.mpr (flip_ne hi (body.getD 2 0#8))
    rw [if_pos hk2, if_neg (by omega)]
    omega
  · simp [hk1, hk2]

theorem crc16_flipBit_ne {poly : Hword} (hpoly : poly.getLsbD 0 = true) (start : Hword) :
    crc16 poly (flipBit body k i) start ≠ crc16 poly body start := by
  obtain ⟨front, b, back, rfl, rfl⟩ := exists_split_at hk
  rw [flipBit_split]
  exact crc16_ne_of_byte_ne hpoly (flip_ne hi b) front back start

end

end Sys2Proof.Machine

open Sys2Proof.Spec Sys2Proof.Machine

/-- Settles O17: PK.BUILD's domain is R124's; its frame holds the packed header, the payload and their CRC. -/
theorem Sys2Proof.pkBuildAssemblesTheFrame : Obligations.PkBuildAssemblesTheFrame := by
  intro type payload seq s
  refine ⟨fun htype hpayload hseq => ?inRange, fun hout => ?refused⟩
  case inRange =>
    have hdomain : buildDomain type payload seq = true := buildDomain_iff.mpr ⟨htype, hpayload, hseq⟩
    obtain ⟨t, q, rfl, rfl⟩ := fields_of_buildDomain hdomain
    have hbuild := pkBuild_next hdomain s
    obtain ⟨hlower, hupper⟩ := length_wireFrame_bounds (rawPacketOf s.config t payload q)
    rw [length_rawPacketOf] at hlower hupper
    rw [rawPacketOf, crcTrailer_eq] at hbuild hlower hupper
    exact ⟨_, _, pkHdrPack_packetHeader hpayload t q s, pkCrc16_next _ none s, hbuild,
      (Nat.le_add_left 8 _).trans hlower, hupper.trans (by omega)⟩
  case refused => exact pkBuild_refused (Bool.eq_false_iff.mpr fun h => hout (buildDomain_iff.mp h)) s

/-- Settles O18: by what unescaping gives, too few bytes or a body with its trailer. -/
theorem Sys2Proof.pkDecodeChecksInOrder : Obligations.PkDecodeChecksInOrder := by
  intro f s
  refine ⟨fun hmarkers => pkDecode_refused hmarkers s, fun content hf => ⟨fun e herror => ?escapes, fun u hu => ?unescaped⟩⟩
  case escapes =>
    rw [hf]
    exact (exec_pkDecode_delimit content s).trans (by rw [decodeContent_of_error herror]; rfl)
  case unescaped =>
    -- From here on the reply is that of the checks on the unescaped bytes.
    have hreply {r : Except Err Packet} (h : decodeRaw s.config u = r) :
        exec (.pkDecode f) s = .next (s.withReply (some (packetReply r))) := by
      rw [hf, ← h, ← decodeContent_of_ok hu]
      exact exec_pkDecode_delimit content s
    refine ⟨fun hshort => hreply (decodeRaw_short hshort s.config), fun b0 b1 b2 b3 rest lo hi hparts h hunpack => ?checks⟩
    case checks =>
      have hheader : h = bodyHeader ([b0, b1, b2, b3] ++ rest) := by
        rw [pkHdrUnpack_next] at hunpack
        exact (Reply.header.inj (next_withReply_inj.mp hunpack)).symm
      have hbody : 4 ≤ ([b0, b1, b2, b3] ++ rest).length := Nat.le_add_left 4 _
      have hcrc : crc16 s.config.crcPoly ([b0, b1, b2, b3] ++ rest) crcInit = trailerValue lo hi ↔
          crc s.config.crcPoly.toNat ([b0, b1, b2, b3] ++ rest) 0xFFFF = lo.toNat + 256 * hi.toNat := by
        rw [← BitVec.toNat_inj, crc16_toNat, trailerValue_toNat]
        rfl
      rw [← crcTrailer_trailerValue lo hi] at hparts
      subst hheader hparts
      exact ⟨fun hlength => hreply (decodeRaw_wrong_length hbody hlength),
        fun hlength hdip hwrong => hreply (decodeRaw_wrong_crc hbody hlength hdip (hcrc.not.mpr hwrong)),
        fun hlength hright => hreply (decodeRaw_ok hbody hlength fun hdip => hcrc.mpr (hright hdip))⟩

/-- Settles O20: unescaping undoes escaping, the header's fields are read back from its bytes, and the CRC is the one appended. -/
theorem Sys2Proof.builtPacketsDecodeToTheirFields : Obligations.BuiltPacketsDecodeToTheirFields := by
  intro type payload seq s htype hpayload hseq
  have hdomain : buildDomain type payload seq = true := buildDomain_iff.mpr ⟨htype, hpayload, hseq⟩
  obtain ⟨t, q, rfl, rfl⟩ := fields_of_buildDomain hdomain
  obtain ⟨c, hdecode⟩ := decodeRaw_rawPacketOf hpayload s.config t q
  refine ⟨_, _, pkBuild_next hdomain s, (pkDecode_wireFrame _ s).trans (by rw [hdecode]; rfl), rfl, rfl, rfl, ?length, rfl, rfl, rfl⟩
  case length => exact packetHeader_length_toNat hpayload s.config t q

/-- Settles O21: the flip changes the length field, the integrity flag, or neither; an odd polynomial notices a changed byte. -/
theorem Sys2Proof.oneFlippedBitIsNoticed : Obligations.OneFlippedBitIsNoticed := by
  intro type payload seq s k i hpayload hdip hpoly hrange hi
  have hk : k < (packetBody s.config type payload seq).length := by
    rw [length_packetBody]
    omega
  have hbody : 4 ≤ (flipBit (packetBody s.config type payload seq) k i).length := by
    rw [length_flipBit]
    exact Nat.le_add_left 4 _
  have hdecode {r : Except Err Packet} (h : decodeRaw s.config (flipBit (packetBody s.config type payload seq) k i ++
      crcTrailer (crc16 s.config.crcPoly (packetBody s.config type payload seq) crcInit)) = r) :
      exec (.pkDecode (wireFrame (flipBit (rawPacketOf s.config type payload seq) k i))) s =
        .next (s.withReply (some (packetReply r))) := by
    rw [pkDecode_wireFrame, rawPacketOf, flipBit_append hk, h]
  have hflag : (bodyHeader (flipBit (packetBody s.config type payload seq) k i)).dip = !decide (k = 0 ∧ i = 6) := by
    rw [dip_flipBit hk hi, bodyHeader_packetBody, packetHeader, hdip, Bool.true_xor]
  have hlength := length_field_flipBit_eq_iff hk hi
  rw [length_field_packetBody hpayload, ← length_flipBit _ k i] at hlength
  refine ⟨fun hat => ?flag, fun hat => hdecode (decodeRaw_wrong_length hbody fun h => hlength.mp h hat),
    fun hnotFlag hnot1 hnot2 => ?other⟩
  case flag =>
    have hclear : (bodyHeader (flipBit (packetBody s.config type payload seq) k i)).dip = false := by
      rw [hflag, decide_eq_true hat, Bool.not_true]
    exact ⟨_, hclear, hdecode (decodeRaw_ok hbody (hlength.mpr (by omega)) fun hset => absurd hset (Bool.eq_false_iff.mp hclear))⟩
  case other =>
    have hset : (bodyHeader (flipBit (packetBody s.config type payload seq) k i)).dip = true := by
      rw [hflag, decide_eq_false hnotFlag, Bool.not_false]
    exact hdecode (decodeRaw_wrong_crc hbody (hlength.mpr (by omega)) hset (crc16_flipBit_ne hk hi hpoly crcInit))
end

section
/-! Proofs about the Reliable Transport's host-port operations (42 R140, R141, R151, R152): what each does where it is accepted, and its
refusal everywhere else. -/

namespace Sys2Proof.Machine

open Sys2Proof.Spec

section
variable {s : State}

/-! ## RT.OPEN (R140) -/

theorem openDomain_iff {t n : Nat} : openDomain t n = true ↔ 0 < t ∧ 1 ≤ n ∧ n ≤ 512 := decide_eq_true_iff

theorem openChannel_ok {rest : List OpenAnswer} (h : s.chan.openAnswers = .ok :: rest) :
    openChannel s = (true, s.withChan { s.chan with isOpen := true, openAnswers := rest }) := by
  simp [openChannel, h]

theorem openChannel_error {rest : List OpenAnswer} (h : s.chan.openAnswers = .error :: rest) :
    openChannel s = (false, s.withChan { s.chan with openAnswers := rest }) := by
  simp [openChannel, h]

/-- In `Closed` with legal operands the channel's answer decides. -/
theorem exec_rtOpen {t n : Nat} {ok : Bool} {u : State} (harq : s.arqState = .closed) (hd : openDomain t n = true)
    (h : openChannel s = (ok, u)) :
    exec (.rtOpen t n) s =
      if ok then answer (resetSession t n u) .nothing else answer u (.raised .channelError) := by
  simp [exec, execRtOpen, harq, hd, h]

theorem exec_rtOpen_refused {t n : Nat} (h : ¬ (s.arqState = .closed ∧ openDomain t n = true)) :
    exec (.rtOpen t n) s = .next (s.withReply (some .refused)) := by
  have hcond : ¬ (decide (s.arqState = .closed) && openDomain t n) = true := by simpa using h
  exact if_neg hcond

/-! ## RT.SEND and the pseudo-operations (R141, R152) -/

theorem sendDomain_iff {type : Nat} {payload : List Byte} : sendDomain type payload = true ↔ type ≤ 15 ∧ payload.length ≤ 512 :=
  decide_eq_true_iff

theorem sendPacket_failed (type : Nat) (payload : List Byte) (harq : s.arqState = .failed) :
    sendPacket type payload s = raiseStored s := by
  simp only [sendPacket, harq]

theorem startTasks_failed (tasks : State → Result) (harq : s.arqState = .failed) : startTasks tasks s = raiseStored s := by
  simp only [startTasks, harq]

theorem sendPacket_refused {type : Nat} {payload : List Byte} (hfailed : s.arqState ≠ .failed)
    (h : ¬ (s.arqState = .idle ∧ sendDomain type payload = true)) :
    sendPacket type payload s = .next (s.withReply (some .refused)) := by
  unfold sendPacket
  split
  case h_1 hidle => exact if_neg fun hd => h ⟨hidle, hd⟩
  case h_2 harq => exact absurd harq hfailed
  all_goals rfl

theorem startTasks_refused (tasks : State → Result) (hfailed : s.arqState ≠ .failed) (hidle : s.arqState ≠ .idle) :
    startTasks tasks s = .next (s.withReply (some .refused)) := by
  unfold startTasks
  split
  case h_1 harq => exact absurd harq hidle
  case h_2 harq => exact absurd harq hfailed
  all_goals rfl

theorem raiseStored_of_reason {r : FailReason} {e : Err} (h : s.failReason = some r) (hr : r.error = some e) :
    raiseStored s = .next (s.withReply (some (.raised e))) := by
  simp only [raiseStored, h, Option.bind_some, hr, readReg_some, answer]

/-- R152: an operation that answers by the stored reason replies its error. -/
theorem replies_stored_reason {i : Instr} (h : exec i s = raiseStored s) :
    (s.failReason = some .retryExhausted → exec i s = .next (s.withReply (some (.raised .retryExhausted)))) ∧
    (s.failReason = some .channelError → exec i s = .next (s.withReply (some (.raised .channelError)))) :=
  ⟨fun hr => h.trans (raiseStored_of_reason hr rfl), fun hr => h.trans (raiseStored_of_reason hr rfl)⟩

/-- The host's pseudo-operations, which send by RT.SEND (43 R171 to R174). -/
def isPseudo : Instr → Bool
  | .sendInitPacket _ | .sendStartDfu _ _ _ _ | .sendFirmware _ | .sendValidateFirmware | .sendActivateFirmware => true
  | _ => false

theorem isPseudo_of_mem {i : Instr} {bytes : List Byte} {mode : UpdateMode} {sd bl app : Option Nat}
    (hi : i ∈ [.sendInitPacket bytes, .sendStartDfu mode sd bl app, .sendFirmware bytes, .sendValidateFirmware, .sendActivateFirmware]) :
    isPseudo i = true := by
  simp only [List.mem_cons, List.not_mem_nil, or_false] at hi
  obtain rfl | rfl | rfl | rfl | rfl := hi <;> rfl

/-- A pseudo-operation is an RT.SEND, or begins its tasks where an RT.SEND would be accepted (assumption 31). -/
theorem exec_pseudo {i : Instr} (hi : isPseudo i = true) :
    (∃ type payload, exec i s = sendPacket type payload s) ∨ ∃ tasks, exec i s = startTasks tasks s := by
  cases i with
  | sendInitPacket bytes => exact .inl ⟨typeInitCode, initPayload bytes, rfl⟩
  | sendStartDfu => unfold exec execSendStartDfu; exact .inr ⟨_, rfl⟩
  | sendFirmware => unfold exec execSendFirmware; exact .inr ⟨_, rfl⟩
  | sendValidateFirmware => unfold exec execSendValidateFirmware; exact .inr ⟨_, rfl⟩
  | sendActivateFirmware => unfold exec execSendActivateFirmware; exact .inr ⟨_, rfl⟩
  | _ => cases hi

theorem exec_pseudo_failed {i : Instr} (hi : isPseudo i = true) (harq : s.arqState = .failed) : exec i s = raiseStored s := by
  obtain ⟨type, payload, h⟩ | ⟨tasks, h⟩ := exec_pseudo (s := s) hi
  · exact h.trans (sendPacket_failed type payload harq)
  · exact h.trans (startTasks_failed tasks harq)

theorem exec_pseudo_refused {i : Instr} (hi : isPseudo i = true) (hfailed : s.arqState ≠ .failed) (hidle : s.arqState ≠ .idle) :
    exec i s = .next (s.withReply (some .refused)) := by
  obtain ⟨type, payload, h⟩ | ⟨tasks, h⟩ := exec_pseudo (s := s) hi
  · exact h.trans (sendPacket_refused hfailed fun h => hidle h.1)
  · exact h.trans (startTasks_refused tasks hfailed hidle)

/-! ## RT.CLOSE (R151) -/

theorem exec_rtClose_session (harq : s.arqState = .idle ∨ s.arqState = .failed) :
    exec .rtClose s = .next ((dropSession (closeChannel s)).withReply (some .nothing)) := by
  obtain harq | harq := harq <;> simp only [exec, execRtClose, harq, answer]

theorem exec_rtClose_closed (harq : s.arqState = .closed) :
    exec .rtClose s = .next ((dropSession s).withReply (some .nothing)) := by
  simp only [exec, execRtClose, harq, answer]

theorem exec_rtClose_refused (hidle : s.arqState ≠ .idle) (hfailed : s.arqState ≠ .failed) (hclosed : s.arqState ≠ .closed) :
    exec .rtClose s = .next (s.withReply (some .refused)) := by
  simp only [exec, execRtClose]
  split
  case h_1 harq => exact absurd harq hidle
  case h_2 harq => exact absurd harq hfailed
  case h_3 harq => exact absurd harq hclosed
  all_goals rfl

end

/-- R152: in `Failed` every effect but that of RT.CLOSE keeps the state and the reason, and only ChanWrite's appends to the
transmit stream. -/
theorem Effect.keeps_failed {i : Instr} {s t : State} (h : Effect s i t) (harq : s.arqState = .failed) (hclose : i ≠ .rtClose) :
    t.arqState = .failed ∧ t.failReason = s.failReason ∧ ((∀ bs, i ≠ .chanWrite bs) → t.chan.tx = s.chan.tx) := by
  cases h with
  | replied | buffered | chanRead => exact ⟨harq, rfl, fun _ => rfl⟩
  | chanWritten bs => exact ⟨harq, rfl, fun hwrite => absurd rfl (hwrite bs)⟩
  | closed | closedAgain => exact absurd rfl hclose
  | retried n hs | exhausted n hs => simp [harq] at hs
  | received _ _ _ _ hs | opened _ _ _ hs | openFailed _ _ _ hs | sent _ _ _ _ _ hs | queued _ _ _ hs | transmitted _ _ _ hs
  | writeFailed _ _ _ _ hs | timedOut _ hs | readFailed _ hs | done hs => cases harq.symm.trans hs

end Sys2Proof.Machine

open Sys2Proof.Machine

/-- Settles O22: in `Closed` by the channel's answer; elsewhere the operation is not accepted. -/
theorem Sys2Proof.rtOpenResetsTheSession : Obligations.RtOpenResetsTheSession := by
  intro t n s
  refine ⟨fun harq ht hn hmax => ⟨fun rest hopen => ?opened, fun rest hopen => ?openFailed⟩, fun harq => ?refused⟩
  case opened => exact exec_rtOpen harq (openDomain_iff.mpr ⟨ht, hn, hmax⟩) (openChannel_ok hopen)
  case openFailed => exact exec_rtOpen harq (openDomain_iff.mpr ⟨ht, hn, hmax⟩) (openChannel_error hopen)
  case refused => exact exec_rtOpen_refused fun h => harq h.1

/-- Settles O23: acceptance builds the frame that PK.BUILD replies for the latched number. -/
theorem Sys2Proof.rtSendAcceptsInIdle : Obligations.RtSendAcceptsInIdle := by
  intro type payload q s harq hq htype hpayload
  have hsend : sendDomain type payload = true := sendDomain_iff.mpr ⟨htype, hpayload⟩
  have hbuild : buildDomain type payload q.toNat = true :=
    buildDomain_iff.mpr ⟨htype, hpayload, Nat.le_of_lt_succ q.isLt⟩
  refine ⟨buildFrame s.config (BitVec.ofNat 4 type) payload q, ?built, sendPacket_idle harq hq hsend⟩
  case built => simp only [exec, execPkBuild, if_pos hbuild, BitVec.ofNat_toNat, BitVec.setWidth_eq, answer, State.withReply]

/-- Settles O24: RT.SEND and the operations that begin with one read the stored reason. -/
theorem Sys2Proof.failedRepliesTheStoredReason : Obligations.FailedRepliesTheStoredReason := by
  intro type bytes mode sd bl app i s hi harq
  obtain rfl | hi := List.mem_cons.mp hi
  · exact replies_stored_reason (sendPacket_failed type bytes harq)
  · exact replies_stored_reason (exec_pseudo_failed (isPseudo_of_mem hi) harq)

/-- Settles O25: each operation is accepted, or answers the stored error, only in the states its rule names. -/
theorem Sys2Proof.transportRefusesOutsideItsConditions : Obligations.TransportRefusesOutsideItsConditions := by
  intro t n type a q payload mode sd bl app i s
  refine ⟨fun h => ?openRefused, fun hfailed h => ?sendRefused, fun hidle hfailed hclosed => ?closeRefused,
    fun hidle hfailed hi => ?pseudoRefused, fun h => ?ackRefused⟩
  case openRefused => exact exec_rtOpen_refused fun ⟨harq, hd⟩ => h ⟨harq, openDomain_iff.mp hd⟩
  case sendRefused => exact sendPacket_refused hfailed fun ⟨harq, hd⟩ => h ⟨harq, sendDomain_iff.mp hd⟩
  case closeRefused => exact exec_rtClose_refused hidle hfailed hclosed
  case pseudoRefused => exact exec_pseudo_refused (isPseudo_of_mem hi) hfailed hidle
  case ackRefused => exact if_neg fun hd => h (of_decide_eq_true hd)

/-- Settles O26: in a session the handle is released too; in `Closed` there is none. -/
theorem Sys2Proof.rtCloseDiscardsTheSession : Obligations.RtCloseDiscardsTheSession :=
  fun _ => ⟨exec_rtClose_session, exec_rtClose_closed⟩

/-- Settles O55: of the effects, RT.CLOSE's alone leaves `Failed`; RT.SEND there reads the reason and replies. -/
theorem Sys2Proof.failedIsFinal : Obligations.FailedIsFinal := by
  intro s harq
  exact ⟨fun i t hi h => (exec_effect h).keeps_failed harq hi,
    fun type payload _ _ => replies_stored_reason (sendPacket_failed type payload harq)⟩
end

section
/-! Proofs about the ten internal transitions (42 R142 to R150, the table of R154): what each does where its condition holds, and what
a received byte decides. -/

namespace Sys2Proof.Machine

open Sys2Proof.Spec

section
variable {s : State}

/-! ## Sending and what ends an RT.SEND -/

/-- R142: the attempt is counted, the frame written, and the channel's answer decides. -/
theorem exec_tTransmit {n : Nat} {f : List Byte} {ok : Bool} {u : State} (harq : s.arqState = .sending) (hn : s.attempts = some n)
    (hf : s.txFrame = some f) (hwrite : writeChannel f (s.withAttempts (some (n + 1))) = (ok, u)) :
    exec .tTransmit s = .next (if ok then u.withArq .awaitingAck else enterError .channelError u) := by
  simp only [exec, execTTransmit, if_pos harq, hn, hf, readReg_some, hwrite]
  cases ok <;> rfl

theorem exec_tTimeout {rest : List RxInput} (harq : s.arqState = .awaitingAck) (hrx : s.chan.rxIn = .timeout :: rest) :
    exec .tTimeout s = .next (enterError .timeout (s.withRxIn rest)) := by
  simp only [exec, execTTimeout, if_pos harq, hrx]

theorem exec_tChanErr {rest : List RxInput} (harq : s.arqState = .awaitingAck) (hrx : s.chan.rxIn = .error :: rest) :
    exec .tChanErr s = .next (enterError .channelError (s.withRxIn rest)) := by
  simp only [exec, execTChanErr, if_pos harq, hrx]

theorem exec_tDone (harq : s.arqState = .acked) : exec .tDone s = .next ((s.withArq .idle).withReply (some .ok)) := if_pos harq

theorem exec_tRxByte_nothing {rest : List RxInput} (harq : s.arqState = .awaitingAck) (hrx : s.chan.rxIn = .nothing :: rest) :
    exec .tRxByte s = .next (s.withRxIn rest) := by
  simp only [exec, execTRxByte, if_pos harq, hrx]

/-- The model's choice where no input is listed (assumption 2). -/
theorem exec_tRxByte_unscripted (harq : s.arqState = .awaitingAck) (hrx : s.chan.rxIn = []) : exec .tRxByte s = .next s := by
  simp only [exec, execTRxByte, if_pos harq, hrx]

/-! ## After a failed attempt (R148) -/

section
variable {n : Nat} (harq : s.arqState = .retrying ∨ s.arqState = .timedOut) (hn : s.attempts = some n)
include harq hn

theorem exec_tRetry : exec .tRetry s = if n < maxAttempts then .next (s.withArq .sending) else noTransition := by
  simp only [exec, execTRetry, afterFailedAttempt, if_pos harq, hn, readReg_some, returnFromError]

theorem exec_tExhaust :
    exec .tExhaust s = if n < maxAttempts then noTransition else .next (failWith .retryExhausted .retryExhausted s) := by
  simp only [exec, execTExhaust, afterFailedAttempt, if_pos harq, hn, readReg_some, enterError]

end

/-- R148, R26: a failed attempt is the first to the fourth. -/
theorem Invariant.attempts_of_failed_attempt {n : Nat} (hs : Invariant s) (harq : s.arqState = .retrying ∨ s.arqState = .timedOut)
    (hn : s.attempts = some n) : 1 ≤ n ∧ n ≤ maxAttempts := by
  have hin := inSend_of_attemptFailed harq
  have hsend : s.arqState ≠ .sending := by obtain h | h := harq <;> simp [h]
  obtain ⟨m, hm, hmax, -, hone⟩ := hs.attemptsBound (not_closed_of_inSend hin)
  obtain rfl : m = n := Option.some.inj (hm.symm.trans hn)
  exact ⟨hone hin hsend, hmax⟩

/-! ## What a received byte decides (R143 to R146) -/

/-- The transition that a verdict calls for (`waitInstr_of_byte`). -/
def Verdict.instr : Verdict → Instr
  | .noFrame => .tRxByte
  | .accepted => .tFrameAck
  | .wrongAck => .tFrameNak
  | .notDecoded _ => .tFrameErr
  | .noTxSeq => .tFrameAck

section
variable {b : Byte} {rest : List RxInput}

theorem waitInstr_of_byte (hrx : s.chan.rxIn = .byte b :: rest) : waitInstr s = (waitVerdict b s).instr := by
  simp only [waitInstr, hrx]
  cases waitVerdict b s <;> rfl

/-- A byte that fits is appended and cut, and its verdict has its effect. -/
theorem waitByte_of_verdict {v : Verdict} {frames : List (List Byte)} {stay : List Byte} (hfits : Fits s 1)
    (hcut : extractFrames (s.rxbuf ++ [b]) = (frames, stay)) (hv : waitVerdict b s = v) :
    waitByte b s = applyVerdict v (s.withRxbuf stay) := by
  have hfit : fits s [b] = true := fits_eq_true hfits
  simp only [waitByte, if_pos hfit, hv, appendAndDecode, hcut]

/-- The transition for a byte's verdict takes the byte and has the verdict's effect. -/
theorem exec_verdict_instr {v : Verdict} {frames : List (List Byte)} {stay : List Byte} (harq : s.arqState = .awaitingAck)
    (hrx : s.chan.rxIn = .byte b :: rest) (hfits : Fits s 1) (hcut : extractFrames (s.rxbuf ++ [b]) = (frames, stay))
    (hv : waitVerdict b s = v) : exec v.instr s = applyVerdict v ((s.withRxbuf stay).withRxIn rest) := by
  obtain ⟨wanted, hexec, hwanted⟩ := exec_waitInstr_of_received_byte harq hrx
  calc exec v.instr s = exec (waitInstr s) s := by rw [waitInstr_of_byte hrx, hv]
    _ = onReceivedByte wanted s := hexec
    _ = waitByte b (s.withRxIn rest) := onReceivedByte_wanted harq hrx hwanted
    _ = applyVerdict v ((s.withRxbuf stay).withRxIn rest) := waitByte_of_verdict (s := s.withRxIn rest) hfits hcut hv

theorem waitVerdict_noFrame (hcount : (s.rxbuf ++ [b]).count markerByte ≤ 1) : waitVerdict b s = .noFrame := by
  simp only [waitVerdict, extractFrames_of_count_le_one hcount]

section
variable {f stay : List Byte} {more : List (List Byte)} (hcuts : Cuts (s.rxbuf ++ [b]) (f :: more) stay)
include hcuts

theorem waitVerdict_of_cuts : waitVerdict b s = frameVerdict s.config s.txSeq f := by
  simp only [waitVerdict, extractFrames_of_cuts hcuts]

/-- What PK.DECODE replies for the first frame is what the wait decodes it to. -/
theorem decodeFrame_of_cuts {r : Except Err Packet}
    (hexec : exec (.pkDecode f) s = .next { s with reply := some (packetReply r) }) : decodeFrame s.config f = r := by
  obtain ⟨content, rfl⟩ := delimit_of_mem_cuts hcuts List.mem_cons_self
  exact (decodeFrame_eq_iff_exec_pkDecode content s r).mpr hexec

/-- R144, R145: the first frame decodes, and its `ack` decides. -/
theorem waitVerdict_of_packet {p : Packet} {q : Seq} (hexec : exec (.pkDecode f) s = .next { s with reply := some (.packet p) })
    (hq : s.txSeq = some q) : waitVerdict b s = if p.header.ack = q + 1#3 then .accepted else .wrongAck := by
  have hdecode : decodeFrame s.config f = .ok p := decodeFrame_of_cuts hcuts hexec
  simp only [waitVerdict_of_cuts hcuts, frameVerdict, hdecode, hq, ackAccepts, beq_iff_eq]

/-- R146: the first frame does not decode. -/
theorem waitVerdict_of_error {e : Err} (hexec : exec (.pkDecode f) s = .next { s with reply := some (.raised e) }) :
    waitVerdict b s = .notDecoded e := by
  have hdecode : decodeFrame s.config f = .error e := decodeFrame_of_cuts hcuts hexec
  simp only [waitVerdict_of_cuts hcuts, frameVerdict, hdecode]

section
variable (harq : s.arqState = .awaitingAck) (hrx : s.chan.rxIn = .byte b :: rest) (hfits : Fits s 1)
include harq hrx hfits

theorem exec_tFrameAck_of_cuts {p : Packet} {q : Seq} (hexec : exec (.pkDecode f) s = .next { s with reply := some (.packet p) })
    (hq : s.txSeq = some q) (hack : p.header.ack = q + 1#3) :
    exec .tFrameAck s = .next (((s.withRxbuf stay).withRxIn rest).withArq .acked) :=
  exec_verdict_instr (v := .accepted) harq hrx hfits (extractFrames_of_cuts hcuts)
    ((waitVerdict_of_packet hcuts hexec hq).trans (if_pos hack))

theorem exec_tFrameNak_of_cuts {p : Packet} {q : Seq} (hexec : exec (.pkDecode f) s = .next { s with reply := some (.packet p) })
    (hq : s.txSeq = some q) (hack : p.header.ack ≠ q + 1#3) :
    exec .tFrameNak s = .next (((s.withRxbuf stay).withRxIn rest).withArq .retrying) :=
  exec_verdict_instr (v := .wrongAck) harq hrx hfits (extractFrames_of_cuts hcuts)
    ((waitVerdict_of_packet hcuts hexec hq).trans (if_neg hack))

theorem exec_tFrameErr_of_cuts {e : Err} (hexec : exec (.pkDecode f) s = .next { s with reply := some (.raised e) }) :
    exec .tFrameErr s = .next (((s.withRxbuf stay).withRxIn rest).withArq .retrying) := by
  have hv := waitVerdict_of_error hcuts hexec
  have herr := exec_verdict_instr (v := .notDecoded e) harq hrx hfits (extractFrames_of_cuts hcuts) hv
  rw [applyVerdict, enterError_decode (waitVerdict_error hv)] at herr
  exact herr

end
end
end

/-! ## The bytes of the frame that a marker closes -/

/-- The closing marker cuts the open frame and leaves nothing. -/
theorem cuts_of_closing_marker {pre content : List Byte} (hpre : NoMarker pre) (hcontent : NoMarker content)
    (hbuf : s.rxbuf = pre ++ 0xC0#8 :: content) : Cuts (s.rxbuf ++ [0xC0#8]) [delimit content] [] := by
  rw [hbuf, List.append_assoc, List.cons_append]
  exact .turn pre content [] [] [] hpre hcontent (.stop [] (Nat.zero_le 1))

/-- The `ack` field of a body stands in bits 5:3 of its first byte (30 R63). -/
theorem bodyHeader_ack_eq_succ_iff (b0 : Byte) (body : List Byte) (q : Seq) :
    (bodyHeader (b0 :: body)).ack = q + 1#3 ↔ b0.toNat / 8 % 8 = (q.toNat + 1) % 8 := by
  have hack : (bodyHeader (b0 :: body)).ack.toNat = b0.toNat / 8 % 8 := by
    change (b0.extractLsb' 3 3).toNat = _
    rw [BitVec.extractLsb'_toNat, Nat.shiftRight_eq_div_pow]
  rw [← BitVec.toNat_inj, hack, BitVec.toNat_add]
  rfl

/-- The length field of a body in numbers (30 R64). -/
theorem bodyHeader_length_toNat (b0 b1 b2 b3 : Byte) (payload : List Byte) :
    (bodyHeader ([b0, b1, b2, b3] ++ payload)).length.toNat = b1.toNat / 16 + 16 * b2.toNat :=
  (lengthField_toNat b1 b2).trans (Nat.add_comm _ _)

/-- The CRC test of PK.DECODE in R120's numbers. -/
theorem crc16_eq_trailerValue_iff (cfg : Config) (body : List Byte) (lo hi : Byte) :
    crc16 cfg.crcPoly body crcInit = trailerValue lo hi ↔ crc cfg.crcPoly.toNat body 0xFFFF = lo.toNat + 256 * hi.toNat := by
  rw [← BitVec.toNat_inj, crc16_toNat, trailerValue_toNat]
  rfl

section
variable {cfg : Config} {b0 b1 b2 b3 lo hi : Byte} {payload : List Byte}

/-- R125 on the bytes: length field and CRC are right. -/
theorem decodeRaw_bytes_ok (hlength : b1.toNat / 16 + 16 * b2.toNat = payload.length)
    (hcrc : b0.getLsbD 6 = true → crc cfg.crcPoly.toNat ([b0, b1, b2, b3] ++ payload) 0xFFFF = lo.toNat + 256 * hi.toNat) :
    ∃ p, decodeRaw cfg ([b0, b1, b2, b3] ++ payload ++ [lo, hi]) = .ok p ∧
      p.header = bodyHeader ([b0, b1, b2, b3] ++ payload) := by
  rw [← crcTrailer_trailerValue lo hi]
  exact ⟨_, decodeRaw_ok (Nat.le_add_left 4 _) ((bodyHeader_length_toNat b0 b1 b2 b3 payload).trans hlength)
    fun hdip => (crc16_eq_trailerValue_iff ..).mpr (hcrc hdip), rfl⟩

/-- R125 on the bytes: the length field, or with `dip` the CRC, is wrong. -/
theorem decodeRaw_bytes_error
    (h : b1.toNat / 16 + 16 * b2.toNat ≠ payload.length ∨
      (b0.getLsbD 6 = true ∧ crc cfg.crcPoly.toNat ([b0, b1, b2, b3] ++ payload) 0xFFFF ≠ lo.toNat + 256 * hi.toNat)) :
    ∃ e, decodeRaw cfg ([b0, b1, b2, b3] ++ payload ++ [lo, hi]) = .error e := by
  have hfield := bodyHeader_length_toNat b0 b1 b2 b3 payload
  have hbody : 4 ≤ ([b0, b1, b2, b3] ++ payload).length := Nat.le_add_left 4 _
  rw [← crcTrailer_trailerValue lo hi]
  by_cases hlength : b1.toNat / 16 + 16 * b2.toNat = payload.length
  · obtain ⟨hdip, hcrc⟩ := h.resolve_left (not_not.mpr hlength)
    exact ⟨_, decodeRaw_wrong_crc hbody (hfield.trans hlength) hdip ((crc16_eq_trailerValue_iff ..).not.mpr hcrc)⟩
  · exact ⟨_, decodeRaw_wrong_length hbody (hfield.trans_ne hlength)⟩

end

end

/-! ## The rows of R154 -/

theorem canReply_of_isTransition {i : Instr} (h : isTransition i = true) : canReply i = false := by
  cases i <;> simp [isTransition] at h <;> rfl

/-- R143 to R146: where a wait can be after a transition on a received byte, the table has a row. -/
theorem transitionRow_of_mem_waitEnds {i : Instr} {a : ArqState} (hi : isTransition i = true) (ha : a ∈ waitEnds i) :
    transitionRow i .awaitingAck a = true := by
  cases i with
  | tRxByte | tFrameAck | tFrameNak | tFrameErr =>
    obtain rfl := List.mem_singleton.mp ha
    rfl
  | marker | esc | escMarker | escEsc | literal | illegalEscape | frame => cases hi
  | _ => cases ha

/-- R154: the effect of a transition is a row of the table. -/
theorem Effect.transitionRow {i : Instr} {s t : State} (h : Effect s i t) (hi : isTransition i = true) :
    transitionRow i s.arqState t.arqState = true := by
  cases h with
  | replied i r hr => simp [canReply_of_isTransition hi] at hr
  | buffered i buf r hwriter =>
    obtain ⟨hwire, -⟩ | ⟨bs, rfl⟩ | rfl := hwriter
    · cases i <;> simp [isWire, isTransition] at hwire hi
    · cases hi
    · cases hi
  | received i buf rx a hs ha => rw [hs]; exact transitionRow_of_mem_waitEnds hi ha
  | sent i type payload q host hs hd hq hsends =>
    obtain ⟨rfl, -⟩ | ⟨b, rfl, -⟩ | ⟨m, sd, bl, app, rfl⟩ := hsends <;> cases hi
  | queued i host n hs hqueues => obtain ⟨image, rfl⟩ | rfl | rfl := hqueues <;> cases hi
  | transmitted n f answers hs => rw [hs]; rfl
  | writeFailed n f sent answers hs => rw [hs]; rfl
  | timedOut rest hs => rw [hs]; rfl
  | readFailed rest hs => rw [hs]; rfl
  | retried n hs => obtain hs | hs := hs <;> rw [hs] <;> rfl
  | exhausted n hs => obtain hs | hs := hs <;> rw [hs] <;> rfl
  | done hs => rw [hs]; rfl
  | opened | openFailed | closed | closedAgain | chanRead | chanWritten => cases hi

end Sys2Proof.Machine

open Sys2Proof.Spec Sys2Proof.Machine

/-- Settles O27: by the channel's answer to the write. -/
theorem Sys2Proof.transmitWritesTheWholeFrame : Obligations.TransmitWritesTheWholeFrame := by
  intro n f s harq hn hf
  exact ⟨fun rest hwrite => exec_tTransmit harq hn hf (writeChannel_ok f hwrite),
    fun m rest hwrite => exec_tTransmit harq hn hf (writeChannel_error f hwrite)⟩

/-- Settles O28: a buffer with at most one marker holds no frame. -/
theorem Sys2Proof.rxByteKeepsWaiting : Obligations.RxByteKeepsWaiting := by
  intro s harq
  refine ⟨fun rest hrx => exec_tRxByte_nothing harq hrx, fun b rest hrx hfits hcount => ?byte⟩
  case byte =>
    exact exec_verdict_instr (v := .noFrame) harq hrx hfits (extractFrames_of_count_le_one hcount) (waitVerdict_noFrame hcount)

/-- Settles O29: PK.DECODE's reply for the first frame is what the wait decodes; right length and CRC make it a packet. -/
theorem Sys2Proof.decodedFrameDecidesByItsAck : Obligations.DecodedFrameDecidesByItsAck := by
  refine ⟨fun b rest f more stay p q s harq hrx hfits hcuts hexec hq => ?frame,
    fun pre payload b0 b1 b2 b3 lo hi rest q s harq hrx hfits hq hpre hbuf hlength hcrc => ?bytes⟩
  case frame =>
    exact ⟨exec_tFrameAck_of_cuts hcuts harq hrx hfits hexec hq, exec_tFrameNak_of_cuts hcuts harq hrx hfits hexec hq⟩
  case bytes =>
    obtain ⟨p, hdecode, hheader⟩ := decodeRaw_bytes_ok (cfg := s.config) (b3 := b3) hlength hcrc
    have hcuts := cuts_of_closing_marker hpre (noMarker_escapedAll _) hbuf
    have hexec : exec (.pkDecode (wireFrame ([b0, b1, b2, b3] ++ payload ++ [lo, hi]))) s =
        .next (s.withReply (some (.packet p))) := by
      rw [pkDecode_wireFrame, hdecode, packetReply]
    have hack : p.header.ack = q + 1#3 ↔ b0.toNat / 8 % 8 = (q.toNat + 1) % 8 := hheader ▸ bodyHeader_ack_eq_succ_iff b0 _ q
    exact ⟨fun h => exec_tFrameAck_of_cuts hcuts harq hrx hfits hexec hq (hack.mpr h),
      fun h => exec_tFrameNak_of_cuts hcuts harq hrx hfits hexec hq (hack.not.mpr h)⟩

/-- Settles O30: each of the four faults in the bytes makes PK.DECODE raise an error. -/
theorem Sys2Proof.undecodableFrameLeadsToRetrying : Obligations.UndecodableFrameLeadsToRetrying := by
  refine ⟨fun b rest f more stay e s harq hrx hfits hcuts hexec => exec_tFrameErr_of_cuts hcuts harq hrx hfits hexec,
    fun pre content rest s harq hrx hfits hpre hcontent hbuf hfault => ?bytes⟩
  case bytes =>
    have hdecode : ∃ e, decodeContent s.config content = .error e := by
      obtain herror | ⟨u, hu, hshort⟩ | ⟨b0, b1, b2, b3, payload, lo, hi, hu, hwrong⟩ := hfault
      · exact ⟨_, decodeContent_of_error herror s.config⟩
      · exact ⟨_, (decodeContent_of_ok hu s.config).trans (decodeRaw_short hshort s.config)⟩
      · obtain ⟨e, he⟩ := decodeRaw_bytes_error hwrong
        exact ⟨e, (decodeContent_of_ok hu s.config).trans he⟩
    obtain ⟨e, he⟩ := hdecode
    have hexec : exec (.pkDecode (delimit content)) s = .next (s.withReply (some (.raised e))) := by
      rw [exec_pkDecode_delimit, he, packetReply]
    exact exec_tFrameErr_of_cuts (cuts_of_closing_marker hpre hcontent hbuf) harq hrx hfits hexec

/-- Settles O31: taking the error TIMEOUT writes the counter, the events and the state. -/
theorem Sys2Proof.timeoutResetsTheCounter : Obligations.TimeoutResetsTheCounter :=
  fun _ s harq hrx => ⟨Free.message s.freeCount, s.freeCount + 1, exec_tTimeout harq hrx⟩

/-- Settles O32: by the count of attempts; the invariant bounds it. -/
theorem Sys2Proof.retryUntilFourAttempts : Obligations.RetryUntilFourAttempts := by
  intro n s harq hn
  refine ⟨fun hle => ?retry, fun hgt => ?exhaust, fun hs => ?bound⟩
  case retry =>
    have hlt : n < maxAttempts := Nat.lt_succ_of_le hle
    exact ⟨(exec_tRetry harq hn).trans (if_pos hlt),
      fun t ht => noTransition_ne (((exec_tExhaust harq hn).trans (if_pos hlt)).symm.trans ht)⟩
  case exhaust =>
    have hge : ¬ n < maxAttempts := Nat.not_lt.mpr hgt
    exact ⟨(exec_tExhaust harq hn).trans (if_neg hge),
      fun t ht => noTransition_ne (((exec_tRetry harq hn).trans (if_neg hge)).symm.trans ht)⟩
  case bound =>
    obtain ⟨hone, hmax⟩ := hs.attempts_of_failed_attempt harq hn
    exact ⟨hone, fun hgt => Nat.le_antisymm hmax hgt⟩

/-- Settles O33: both ends of an RT.SEND on their conditions. -/
theorem Sys2Proof.doneAndChannelErrorEndTheSend : Obligations.DoneAndChannelErrorEndTheSend :=
  fun _ => ⟨exec_tDone, fun _ harq hrx => exec_tChanErr harq hrx⟩

/-- Settles O34: every effect of a transition is a row. -/
theorem Sys2Proof.transitionsFollowTheTable : Obligations.TransitionsFollowTheTable :=
  fun _ _ _ hi h => (exec_effect h).transitionRow hi
end

section
/-! Proofs about the steps inside an RT.SEND (42 R143, R154): which transition a step is, and that there always is one. -/

namespace Sys2Proof.Machine

open Sys2Proof.Spec

section
variable {s : State}

/-! ## The transition of a step -/

theorem step_of_select_run {i : Instr} {u : State} (h : select s = .run i u) : step s = exec i u := by
  simp only [step, h]

theorem select_sending (harq : s.arqState = .sending) : select s = .run .tTransmit s := by
  simp only [select, harq]

theorem select_awaitingAck (harq : s.arqState = .awaitingAck) : select s = .run (waitInstr s) s := by
  simp only [select, harq]

theorem select_acked (harq : s.arqState = .acked) : select s = .run .tDone s := by
  simp only [select, harq]

theorem select_failedAttempt (harq : s.arqState = .retrying ∨ s.arqState = .timedOut) : select s = .run (retryInstr s) s := by
  obtain harq | harq := harq <;> simp only [select, harq]

theorem retryInstr_of_attempts {n : Nat} (hn : s.attempts = some n) :
    retryInstr s = if n < maxAttempts then .tRetry else .tExhaust := by
  simp only [retryInstr, hn]

theorem isTransition_retryInstr (s : State) : isTransition (retryInstr s) = true := by
  unfold retryInstr
  split
  · split <;> rfl
  · rfl

theorem isTransition_waitInstr (s : State) : isTransition (waitInstr s) = true := by
  match hrx : s.chan.rxIn with
  | [] | .nothing :: _ | .error :: _ | .timeout :: _ => simp only [waitInstr, hrx, isTransition]
  | .byte b :: _ =>
    rw [waitInstr_of_byte hrx]
    cases waitVerdict b s <;> rfl

/-- R154: inside an RT.SEND the block runs one of the ten transitions. -/
theorem select_inSend (hin : InSend s) : ∃ i, isTransition i = true ∧ select s = .run i s := by
  cases harq : s.arqState with
  | sending => exact ⟨_, rfl, select_sending harq⟩
  | awaitingAck => exact ⟨_, isTransition_waitInstr s, select_awaitingAck harq⟩
  | acked => exact ⟨_, rfl, select_acked harq⟩
  | retrying => exact ⟨_, isTransition_retryInstr s, select_failedAttempt (.inl harq)⟩
  | timedOut => exact ⟨_, isTransition_retryInstr s, select_failedAttempt (.inr harq)⟩
  | closed | idle | failed => simp [InSend, harq, hostHasTurn] at hin

/-! ## What a step leads to -/

/-- An RT.SEND has ended, its reply given (R149, R150, R148). -/
def SendEnded (s : State) : Prop :=
  (s.arqState = .idle ∧ s.reply = some .ok) ∨
    (s.arqState = .failed ∧ (s.reply = some (.raised .retryExhausted) ∨ s.reply = some (.raised .channelError)))

theorem sendEnded_channelError (s : State) : SendEnded (enterError .channelError s) := .inr ⟨rfl, .inr rfl⟩

theorem sendEnded_retryExhausted (s : State) : SendEnded (enterError .retryExhausted s) := .inr ⟨rfl, .inl rfl⟩

/-- R26: inside an RT.SEND the attempts are counted, and there is room for the one to be sent. -/
theorem Invariant.attempts_inSend (hs : Invariant s) (hin : InSend s) :
    ∃ n, s.attempts = some n ∧ n ≤ maxAttempts ∧ (s.arqState = .sending → n < maxAttempts) ∧
      (s.arqState ≠ .sending → 1 ≤ n) := by
  obtain ⟨n, hn, hmax, hroom, hone⟩ := hs.attemptsBound (not_closed_of_inSend hin)
  exact ⟨n, hn, hmax, hroom, hone hin⟩

/-- R142: an attempt is sent and counted, or the write ends the RT.SEND. -/
theorem step_next_of_sending {n : Nat} (hs : Invariant s) (harq : s.arqState = .sending) (hn : s.attempts = some n) :
    ∃ t, step s = .next t ∧ t.chan.rxIn = s.chan.rxIn ∧
      ((t.arqState = .awaitingAck ∧ t.attempts = some (n + 1)) ∨ SendEnded t) := by
  obtain ⟨type, payload, q, -, -, hf, -⟩ := hs.packetInHand (by simp [InSend, harq, hostHasTurn])
  obtain ⟨sent, answers, hu, -⟩ := writeChannel_state (buildFrame s.config type payload q) (s.withAttempts (some (n + 1)))
  cases hwrite : writeChannel (buildFrame s.config type payload q) (s.withAttempts (some (n + 1))) with
  | mk ok u =>
    rw [hwrite] at hu
    obtain rfl := hu
    refine ⟨_, (step_of_select_run (select_sending harq)).trans (exec_tTransmit harq hn hf hwrite), ?_⟩
    cases ok
    · exact ⟨rfl, .inr (sendEnded_channelError _)⟩
    · exact ⟨rfl, .inl ⟨rfl, rfl⟩⟩

/-- A byte that fits, received with a number to compare with, completes its step. -/
theorem waitByte_completes {q : Seq} (b : Byte) (hq : s.txSeq = some q) (hfits : Fits s 1) : ∃ t, waitByte b s = .next t := by
  rw [waitByte_of_verdict hfits rfl rfl]
  cases hv : waitVerdict b s with
  | noTxSeq => simp [waitVerdict_noTxSeq hv] at hq
  | _ => exact ⟨_, rfl⟩

/-- R143 to R147, R150: a step of a wait takes its next input. It ends the wait where the input is the timeout, and may do so on a
byte; a read that fails ends the RT.SEND. -/
theorem step_next_of_wait {x : RxInput} {rest : List RxInput} {q : Seq} (harq : s.arqState = .awaitingAck)
    (hrx : s.chan.rxIn = x :: rest) (hq : s.txSeq = some q) (hfits : Fits s 1) :
    ∃ t, step s = .next t ∧ t.chan.rxIn = rest ∧ t.attempts = s.attempts ∧
      ((t.arqState = .awaitingAck ∧ x ≠ .timeout) ∨ t.arqState = .acked ∨ (t.arqState = .retrying ∨ t.arqState = .timedOut) ∨
        SendEnded t) := by
  have hstep := step_of_select_run (select_awaitingAck harq)
  cases x with
  | nothing =>
    rw [waitInstr, hrx] at hstep
    exact ⟨_, hstep.trans (exec_tRxByte_nothing harq hrx), rfl, rfl, .inl ⟨harq, by simp⟩⟩
  | error =>
    rw [waitInstr, hrx] at hstep
    exact ⟨_, hstep.trans (exec_tChanErr harq hrx), rfl, rfl, .inr (.inr (.inr (sendEnded_channelError _)))⟩
  | timeout =>
    rw [waitInstr, hrx] at hstep
    exact ⟨_, hstep.trans (exec_tTimeout harq hrx), rfl, rfl, .inr (.inr (.inl (.inr rfl)))⟩
  | byte b =>
    obtain ⟨t, ht⟩ := waitByte_completes (s := s.withRxIn rest) b hq hfits
    refine ⟨t, (step_of_received_byte harq hrx).trans ht, ?_⟩
    obtain ⟨buf, -, rfl | rfl | rfl⟩ := waitByte_next ht
    · exact ⟨rfl, rfl, .inl ⟨harq, by simp⟩⟩
    · exact ⟨rfl, rfl, .inr (.inl rfl)⟩
    · exact ⟨rfl, rfl, .inr (.inr (.inl (.inl rfl)))⟩

/-- The model's choice where no input is listed (assumption 2). -/
theorem step_next_of_unscripted_wait (harq : s.arqState = .awaitingAck) (hrx : s.chan.rxIn = []) : step s = .next s := by
  have hstep := step_of_select_run (select_awaitingAck harq)
  rw [waitInstr, hrx] at hstep
  exact hstep.trans (exec_tRxByte_unscripted harq hrx)

theorem step_next_of_acked (harq : s.arqState = .acked) : step s = .next ((s.withArq .idle).withReply (some .ok)) :=
  (step_of_select_run (select_acked harq)).trans (exec_tDone harq)

/-- R148: the same frame again, or the end. -/
theorem step_next_of_failedAttempt {n : Nat} (harq : s.arqState = .retrying ∨ s.arqState = .timedOut) (hn : s.attempts = some n) :
    step s = .next (if n < maxAttempts then s.withArq .sending else enterError .retryExhausted s) := by
  rw [step_of_select_run (select_failedAttempt harq), retryInstr_of_attempts hn]
  by_cases hlt : n < maxAttempts
  · rw [if_pos hlt, if_pos hlt, exec_tRetry harq hn, if_pos hlt]
  · rw [if_neg hlt, if_neg hlt, exec_tExhaust harq hn, if_neg hlt, enterError]

/-- R26 (e): a wait has a number to compare with. -/
theorem Invariant.txSeq_inSend (hs : Invariant s) (hin : InSend s) : ∃ q, s.txSeq = some q := by
  obtain ⟨type, payload, q, -, hq, -⟩ := hs.packetInHand hin
  exact ⟨q, hq⟩

end

end Sys2Proof.Machine

open Sys2Proof.Spec Sys2Proof.Machine

/-- Settles O44: a step runs what `select` chooses, which the state and the wait's next input determine. -/
theorem Sys2Proof.stepTakesTheTransition : Obligations.StepTakesTheTransition := by
  intro s hin
  obtain ⟨i, htransition, hselect⟩ := select_inSend hin
  have chosen {j : Instr} (h : select s = .run j s) : i = j := by
    cases hselect.symm.trans h
    rfl
  refine ⟨i, htransition, step_of_select_run hselect, fun harq => chosen (select_sending harq), fun harq => chosen (select_acked harq),
    fun n harq hn => ?attempts, fun rest harq => ?inputs, fun b rest harq hrx => ?byte⟩
  case attempts =>
    have hi := (chosen (select_failedAttempt harq)).trans (retryInstr_of_attempts hn)
    exact ⟨fun hle => hi.trans (if_pos (Nat.lt_succ_of_le hle)), fun hgt => hi.trans (if_neg (Nat.not_lt.mpr hgt))⟩
  case inputs =>
    have hi := chosen (select_awaitingAck harq)
    rw [waitInstr] at hi
    exact ⟨fun hrx => by rw [hi, hrx], fun hrx => by rw [hi, hrx], fun hrx => by rw [hi, hrx], fun hrx => by rw [hi, hrx]⟩
  case byte =>
    have hi {v : Verdict} (hv : waitVerdict b s = v) : i = v.instr := by
      rw [← hv, ← waitInstr_of_byte hrx]
      exact chosen (select_awaitingAck harq)
    refine ⟨fun hcount => hi (waitVerdict_noFrame hcount),
      fun f more stay hcuts => ⟨fun p q hexec hq => ?packet, fun e hexec => ?error⟩⟩
    case packet =>
      have hv := waitVerdict_of_packet hcuts hexec hq
      exact ⟨fun hack => hi (v := .accepted) (hv.trans (if_pos hack)), fun hack => hi (v := .wrongAck) (hv.trans (if_neg hack))⟩
    case error => exact hi (waitVerdict_of_error hcuts hexec)

/-- Settles O51: by the state; the invariant gives a value to the registers that its transition reads. -/
theorem Sys2Proof.sendNeverGetsStuck : Obligations.SendNeverGetsStuck := by
  intro s hs hin hcap
  obtain ⟨n, hn, -⟩ := hs.attempts_inSend hin
  cases harq : s.arqState with
  | sending =>
    obtain ⟨t, ht, -⟩ := step_next_of_sending hs harq hn
    exact ⟨t, ht⟩
  | awaitingAck =>
    obtain ⟨q, hq⟩ := hs.txSeq_inSend hin
    cases hrx : s.chan.rxIn with
    | nil => exact ⟨s, step_next_of_unscripted_wait harq hrx⟩
    | cons x rest =>
      obtain ⟨t, ht, -⟩ := step_next_of_wait harq hrx hq (fits_of_unbounded hcap 1)
      exact ⟨t, ht⟩
  | acked => exact ⟨_, step_next_of_acked harq⟩
  | retrying => exact ⟨_, step_next_of_failedAttempt (.inl harq) hn⟩
  | timedOut => exact ⟨_, step_next_of_failedAttempt (.inr harq) hn⟩
  | closed | idle | failed => simp [InSend, harq, hostHasTurn] at hin
end

section
/-! Proofs about the end of an RT.SEND (42 R157): with a fair timer every step uses up one of the steps that are left. -/

namespace Sys2Proof.Machine

open Sys2Proof.Spec

section
variable {s t : State}

/-! ## Runs -/

theorem run_succ (k : Nat) (h : step s = .next t) : core.run (k + 1) s = core.run k t := by
  have hcore : core.step s = .next t := h
  simp only [Host.Core.run, hcore]

theorem run_of_fault {f : Fault} (k : Nat) (h : step s = .fault f) : core.run (k + 1) s = .fault f := by
  have hcore : core.step s = .fault f := h
  simp only [Host.Core.run, hcore]

theorem run_of_refused {r : Refusal} (k : Nat) (h : step s = .refused r) : core.run (k + 1) s = .refused r := by
  have hcore : core.step s = .refused r := h
  simp only [Host.Core.run, hcore]

theorem run_add {j : Nat} (k : Nat) (h : core.run j s = .next t) : core.run (j + k) s = core.run k t := by
  induction j generalizing s with
  | zero =>
    cases h
    rw [Nat.zero_add]
  | succ j ih =>
    rw [Nat.succ_add]
    cases hstep : step s with
    | next u =>
      rw [run_succ j hstep] at h
      rw [run_succ (j + k) hstep, ih h]
    | fault f => cases (run_of_fault j hstep).symm.trans h
    | refused r => cases (run_of_refused j hstep).symm.trans h

theorem step_config (h : step s = .next t) : t.config = s.config := by
  obtain ⟨i, host, -, heffect⟩ | hstay := step_cases h
  · exact heffect.config_eq
  · cases hstay <;> rfl

/-! ## An RT.SEND ends (R157) -/

/-- The attempts still to be sent. -/
def attemptsLeft (s : State) : Nat := maxAttempts - s.attempts.getD 0

/-- The transitions that an RT.SEND in a state can still make, its waits' inputs apart, when `m` attempts are left. -/
def transitionsLeft (m : Nat) : ArqState → Nat
  | .sending => 2 * m
  | .awaitingAck => 2 * m + 1
  | .retrying => 2 * m + 1
  | .timedOut => 2 * m + 1
  | .acked => 1
  | .closed => 0
  | .idle => 0
  | .failed => 0

/-- The steps that an RT.SEND can still make. -/
def stepsLeft (s : State) : Nat := s.chan.rxIn.length + transitionsLeft (attemptsLeft s) s.arqState

/-- R157's fairness: a timeout is to come for every wait to come, the present one included. -/
def TimerFair (s : State) : Prop :=
  attemptsLeft s + (if s.arqState = .awaitingAck then 1 else 0) ≤ s.chan.rxIn.count .timeout

theorem SendEnded.transitionsLeft_eq (h : SendEnded s) (m : Nat) : transitionsLeft m s.arqState = 0 := by
  obtain ⟨harq, -⟩ | ⟨harq, -⟩ := h <;> rw [harq] <;> rfl

/-- A step inside an RT.SEND uses up one of the steps left, and ends it or stays in it with the timer fair. -/
def Progresses (s t : State) : Prop := stepsLeft t < stepsLeft s ∧ (SendEnded t ∨ (InSend t ∧ TimerFair t))

theorem progresses_of_sending {n : Nat} (hs : Invariant s) (hfair : TimerFair s) (harq : s.arqState = .sending)
    (hn : s.attempts = some n) (hroom : n < maxAttempts) : ∃ t, step s = .next t ∧ Progresses s t := by
  obtain ⟨t, ht, hrx, hcase⟩ := step_next_of_sending hs harq hn
  have hleft : attemptsLeft s = maxAttempts - n := by rw [attemptsLeft, hn, Option.getD_some]
  rw [TimerFair, hleft] at hfair
  refine ⟨t, ht, ?_⟩
  rw [Progresses, TimerFair, stepsLeft, stepsLeft, hrx, harq, hleft]
  obtain ⟨hwait, hcount⟩ | hend := hcase
  · have hone : attemptsLeft t + 1 = maxAttempts - n := by
      rw [attemptsLeft, hcount, Option.getD_some]
      omega
    rw [hwait, if_pos rfl, hone]
    refine ⟨?_, .inr ⟨inSend_of_awaitingAck hwait, (Nat.le_add_right _ _).trans hfair⟩⟩
    simp only [transitionsLeft]
    omega
  · rw [hend.transitionsLeft_eq]
    refine ⟨?_, .inl hend⟩
    simp only [transitionsLeft]
    omega

theorem progresses_of_wait (hs : Invariant s) (hcap : s.config.rxBufCap = none) (hfair : TimerFair s)
    (harq : s.arqState = .awaitingAck) : ∃ t, step s = .next t ∧ Progresses s t := by
  obtain ⟨q, hq⟩ := hs.txSeq_inSend (inSend_of_awaitingAck harq)
  rw [TimerFair, if_pos harq] at hfair
  cases hrx : s.chan.rxIn with
  | nil => simp [hrx] at hfair
  | cons x rest =>
    obtain ⟨t, ht, hrest, hattempts, hcase⟩ := step_next_of_wait harq hrx hq (fits_of_unbounded hcap 1)
    have hleft : attemptsLeft t = attemptsLeft s := by rw [attemptsLeft, hattempts, attemptsLeft]
    have hcount : s.chan.rxIn.count .timeout ≤ rest.count .timeout + 1 := by
      rw [hrx, List.count_cons]
      split <;> omega
    refine ⟨t, ht, ?_⟩
    rw [Progresses, TimerFair, stepsLeft, stepsLeft, hleft, hrest, hrx, harq, List.length_cons]
    obtain ⟨hwait, hx⟩ | hacked | hfailed | hend := hcase
    · rw [hrx, List.count_cons_of_ne hx] at hfair
      rw [hwait, if_pos rfl]
      exact ⟨by omega, .inr ⟨inSend_of_awaitingAck hwait, hfair⟩⟩
    · rw [hacked]
      exact ⟨by simp [transitionsLeft], .inr ⟨by simp [InSend, hacked, hostHasTurn], by simp; omega⟩⟩
    · refine ⟨?_, .inr ⟨inSend_of_attemptFailed hfailed, ?_⟩⟩
      · obtain h | h := hfailed <;> simp [h, transitionsLeft]
      · obtain h | h := hfailed <;> simp [h] <;> omega
    · rw [hend.transitionsLeft_eq]
      exact ⟨by simp [transitionsLeft]; omega, .inl hend⟩

theorem progresses_of_acked (harq : s.arqState = .acked) : ∃ t, step s = .next t ∧ Progresses s t := by
  refine ⟨_, step_next_of_acked harq, ?_, .inl (.inl ⟨rfl, rfl⟩)⟩
  simp [stepsLeft, harq, transitionsLeft]

theorem progresses_of_failedAttempt {n : Nat} (hfair : TimerFair s) (harq : s.arqState = .retrying ∨ s.arqState = .timedOut)
    (hn : s.attempts = some n) : ∃ t, step s = .next t ∧ Progresses s t := by
  have hwork : transitionsLeft (attemptsLeft s) s.arqState = 2 * attemptsLeft s + 1 := by
    obtain h | h := harq <;> rw [h] <;> rfl
  refine ⟨_, step_next_of_failedAttempt harq hn, ?_⟩
  rw [Progresses, stepsLeft, stepsLeft, hwork]
  split
  · have hfair' : attemptsLeft s ≤ s.chan.rxIn.count .timeout := (Nat.le_add_right _ _).trans hfair
    exact ⟨Nat.lt_succ_self _, .inr ⟨rfl, hfair'⟩⟩
  · have hend := sendEnded_retryExhausted s
    rw [hend.transitionsLeft_eq, enterError_chan]
    exact ⟨by omega, .inl hend⟩

theorem step_progresses (hs : Invariant s) (hin : InSend s) (hcap : s.config.rxBufCap = none) (hfair : TimerFair s) :
    ∃ t, step s = .next t ∧ Progresses s t := by
  obtain ⟨n, hn, -, hroom, -⟩ := hs.attempts_inSend hin
  cases harq : s.arqState with
  | sending => exact progresses_of_sending hs hfair harq hn (hroom harq)
  | awaitingAck => exact progresses_of_wait hs hcap hfair harq
  | acked => exact progresses_of_acked harq
  | retrying => exact progresses_of_failedAttempt hfair (.inl harq) hn
  | timedOut => exact progresses_of_failedAttempt hfair (.inr harq) hn
  | closed | idle | failed => simp [InSend, harq, hostHasTurn] at hin

/-- R157: with a fair timer an RT.SEND ends within the steps left. -/
theorem run_sendEnded (hs : Invariant s) (hin : InSend s) (hcap : s.config.rxBufCap = none) (hfair : TimerFair s) :
    ∃ k t, k ≤ stepsLeft s ∧ core.run k s = .next t ∧ SendEnded t := by
  induction hm : stepsLeft s using Nat.strongRecOn generalizing s with
  | ind m ih =>
    obtain ⟨u, hu, hless, hcase⟩ := step_progresses hs hin hcap hfair
    rw [hm] at hless
    obtain hend | ⟨hin', hfair'⟩ := hcase
    · exact ⟨1, u, Nat.one_le_of_lt hless, run_succ 0 hu, hend⟩
    · obtain ⟨k, t, hk, hrun, hend⟩ := ih _ hless (step_invariant hs hu) hin' (step_config hu ▸ hcap) hfair' rfl
      exact ⟨k + 1, t, hk.trans_lt hless, (run_succ k hu).trans hrun, hend⟩

/-- R26 (a): at most four attempts are left, and at most three when one has been sent. -/
theorem Invariant.stepsLeft_le (hs : Invariant s) (hin : InSend s) : stepsLeft s ≤ s.chan.rxIn.length + 8 := by
  obtain ⟨n, hn, -, -, hone⟩ := hs.attempts_inSend hin
  rw [stepsLeft, attemptsLeft, hn]
  cases harq : s.arqState with
  | sending => simp [transitionsLeft, maxAttempts]; omega
  | closed | idle | failed | acked => simp [transitionsLeft]
  | awaitingAck | retrying | timedOut =>
    have := hone (by simp [harq])
    simp [transitionsLeft, maxAttempts]
    omega

/-- Four timeouts are enough for every wait. -/
theorem Invariant.timerFair (hs : Invariant s) (hin : InSend s) (hfour : 4 ≤ s.chan.rxIn.count .timeout) : TimerFair s := by
  obtain ⟨n, hn, -, -, hone⟩ := hs.attempts_inSend hin
  rw [TimerFair, attemptsLeft, hn, maxAttempts, Option.getD_some]
  split
  · rename_i harq
    have := hone (by simp [harq])
    omega
  · omega

end

end Sys2Proof.Machine

open Sys2Proof.Spec Sys2Proof.Machine

/-- Settles O52: every step uses up one of the steps left, of which there are at most the inputs and eight. -/
theorem Sys2Proof.rtSendAlwaysEnds : Obligations.RtSendAlwaysEnds := by
  intro s hs hin hcap hfour
  obtain ⟨k, t, hk, hrun, hend⟩ := run_sendEnded hs hin hcap (hs.timerFair hin hfour)
  exact ⟨k, t, hk.trans (hs.stepsLeft_le hin), hrun, hend⟩
end

section
/-! Proofs about a silent peer (42 R156): an attempt whose wait meets the timeout alone, and four of them in a row. -/

namespace Sys2Proof.Machine

open Sys2Proof.Spec

section
variable {s : State}

theorem enterError_retryExhausted_events (s : State) : (enterError .retryExhausted s).events = s.events := rfl

/-- A write that is scripted ok, or not scripted (assumption 2), hands over all its bytes. -/
theorem writeChannel_unfailing (bs : List Byte) (h : ∀ a ∈ s.chan.writeAnswers.take 1, a = .ok) :
    writeChannel bs s =
      (true, s.withChan { s.chan with tx := s.chan.tx ++ bs, writeAnswers := s.chan.writeAnswers.drop 1 }) := by
  cases hw : s.chan.writeAnswers with
  | nil => simp [writeChannel, hw]
  | cons a rest =>
    obtain rfl : a = .ok := h a (by simp [hw])
    simp [writeChannel, hw]

/-- R142: the state after an attempt whose write did not fail. -/
def State.attempted (s : State) (n : Nat) (f : List Byte) : State :=
  ((s.withAttempts (some (n + 1))).withChan
    { s.chan with tx := s.chan.tx ++ f, writeAnswers := s.chan.writeAnswers.drop 1 }).withArq .awaitingAck

theorem step_attempted {n : Nat} {f : List Byte} (harq : s.arqState = .sending) (hn : s.attempts = some n) (hf : s.txFrame = some f)
    (hwrite : ∀ a ∈ s.chan.writeAnswers.take 1, a = .ok) : step s = .next (s.attempted n f) :=
  (step_of_select_run (select_sending harq)).trans (exec_tTransmit harq hn hf (writeChannel_unfailing f hwrite))

theorem step_timeout {rest : List RxInput} (harq : s.arqState = .awaitingAck) (hrx : s.chan.rxIn = .timeout :: rest) :
    step s = .next (enterError .timeout (s.withRxIn rest)) := by
  have hstep := step_of_select_run (select_awaitingAck harq)
  rw [waitInstr, hrx] at hstep
  exact hstep.trans (exec_tTimeout harq hrx)

/-- `Sending` after `n` attempts, with `m` to come: none of them fails to write, and each meets the timeout alone. -/
structure Silent (f : List Byte) (rest : List RxInput) (n m : Nat) (s : State) : Prop where
  arq : s.arqState = .sending
  attempts : s.attempts = some n
  frame : s.txFrame = some f
  writes : ∀ a ∈ s.chan.writeAnswers.take m, a = .ok
  inputs : s.chan.rxIn = List.replicate m RxInput.timeout ++ rest

/-- The state after an attempt that timed out. -/
def State.timedOutAttempt (s : State) (n : Nat) (f : List Byte) : State :=
  enterError .timeout ((s.attempted n f).withRxIn s.chan.rxIn.tail)

section timedOutAttempt
variable (s : State) (n : Nat) (f : List Byte)

@[simp] theorem timedOutAttempt_rxbuf : (s.timedOutAttempt n f).rxbuf = s.rxbuf := rfl
@[simp] theorem timedOutAttempt_txFrame : (s.timedOutAttempt n f).txFrame = s.txFrame := rfl
@[simp] theorem timedOutAttempt_txSeq : (s.timedOutAttempt n f).txSeq = s.txSeq := rfl
@[simp] theorem timedOutAttempt_attempts : (s.timedOutAttempt n f).attempts = some (n + 1) := rfl
@[simp] theorem timedOutAttempt_seqCtr : (s.timedOutAttempt n f).seqCtr = some 0#3 := rfl
@[simp] theorem timedOutAttempt_events :
    (s.timedOutAttempt n f).events = s.events ++ [Event.timeout (Free.message s.freeCount)] := rfl
@[simp] theorem timedOutAttempt_tx : (s.timedOutAttempt n f).chan.tx = s.chan.tx ++ f := rfl
@[simp] theorem timedOutAttempt_rxIn : (s.timedOutAttempt n f).chan.rxIn = s.chan.rxIn.tail := rfl
@[simp] theorem timedOutAttempt_writeAnswers : (s.timedOutAttempt n f).chan.writeAnswers = s.chan.writeAnswers.drop 1 := rfl

end timedOutAttempt

/-- What a silent peer leaves of a session whose first attempt begins in `s` (R156). -/
def SilentEnd (f : List Byte) (rest : List RxInput) (s t : State) : Prop :=
  t.arqState = .failed ∧ t.failReason = some .retryExhausted ∧ t.reply = some (.raised .retryExhausted) ∧
    t.seqCtr = some 0#3 ∧ t.txSeq = s.txSeq ∧ t.attempts = some 4 ∧ t.rxbuf = s.rxbuf ∧
    t.chan.tx = s.chan.tx ++ f ++ f ++ f ++ f ∧ t.chan.rxIn = rest ∧ t.chan.writeAnswers = s.chan.writeAnswers.drop 4 ∧
    ∃ m1 m2 m3 m4, t.events = s.events ++ [Event.timeout m1, Event.timeout m2, Event.timeout m3, Event.timeout m4]

namespace Silent

variable {f : List Byte} {rest : List RxInput} {n m : Nat}

theorem run_attempt (h : Silent f rest n (m + 1) s) : core.run 2 s = .next (s.timedOutAttempt n f) := by
  obtain ⟨harq, hn, hf, hwrites, hrx⟩ := h
  have hone : ∀ a ∈ s.chan.writeAnswers.take 1, a = .ok :=
    fun a ha => hwrites a ((List.take_subset_take_left _ (Nat.le_add_left 1 m)) ha)
  rw [List.replicate_succ, List.cons_append] at hrx
  rw [run_succ 1 (step_attempted harq hn hf hone), run_succ 0 (step_timeout (s := s.attempted n f) rfl hrx), State.timedOutAttempt, hrx]
  rfl

/-- With an attempt left the same frame is sent again. -/
theorem run_retry (h : Silent f rest n (m + 1) s) (hlt : n + 1 < maxAttempts) :
    core.run 3 s = .next ((s.timedOutAttempt n f).withArq .sending) ∧
      Silent f rest (n + 1) m ((s.timedOutAttempt n f).withArq .sending) := by
  refine ⟨(run_add 1 h.run_attempt).trans (run_succ 0 ?_), rfl, rfl, h.frame, fun a ha => h.writes a ?_, ?_⟩
  · exact (step_next_of_failedAttempt (s := s.timedOutAttempt n f) (.inr rfl) rfl).trans (by rw [if_pos hlt])
  · have hmem : a ∈ (s.chan.writeAnswers.take (1 + m)).drop 1 := List.take_drop ▸ ha
    exact Nat.add_comm 1 m ▸ List.mem_of_mem_drop hmem
  · change s.chan.rxIn.tail = _
    rw [h.inputs]
    rfl

theorem run_exhaust (h : Silent f rest n (m + 1) s) (hge : ¬ n + 1 < maxAttempts) :
    core.run 3 s = .next (enterError .retryExhausted (s.timedOutAttempt n f)) :=
  (run_add 1 h.run_attempt).trans (run_succ 0
    ((step_next_of_failedAttempt (s := s.timedOutAttempt n f) (.inr rfl) rfl).trans (by rw [if_neg hge])))

/-- Four attempts that time out: three are repeated, the fourth is the last. -/
theorem run_four (h : Silent f rest 0 4 s) :
    ∃ t, core.run 12 s = .next t ∧ SilentEnd f rest s t := by
  obtain ⟨hrun1, h1⟩ := h.run_retry (by decide)
  obtain ⟨hrun2, h2⟩ := h1.run_retry (by decide)
  obtain ⟨hrun3, h3⟩ := h2.run_retry (by decide)
  have hrun4 := h3.run_exhaust (by decide)
  refine ⟨_, (run_add 9 hrun1).trans ((run_add 6 hrun2).trans ((run_add 3 hrun3).trans hrun4)),
    rfl, rfl, rfl, rfl, ?number, rfl, ?buffer, ?sent, ?inputs, ?writes, ?events⟩
  case number => simp
  case buffer => simp
  case sent => simp
  case inputs => simp [h.inputs, List.replicate]
  case writes => simp
  case events =>
    simp only [enterError_retryExhausted_events, timedOutAttempt_events, State.withArq_events, List.append_assoc,
      List.singleton_append]
    exact ⟨_, _, _, _, rfl⟩

end Silent

end

end Sys2Proof.Machine

open Sys2Proof.Spec Sys2Proof.Machine

/-- Settles O53: three attempts time out and are repeated, the fourth is the last. -/
theorem Sys2Proof.silentPeerExhaustsFourAttempts : Obligations.SilentPeerExhaustsFourAttempts := by
  intro type payload q rest s harq hq htype hpayload hwrites hrx
  have hsend := sendPacket_idle harq hq (sendDomain_iff.mpr ⟨htype, hpayload⟩)
  have h0 : Silent (buildFrame s.config (BitVec.ofNat 4 type) payload q) rest 0 4 (accepted (BitVec.ofNat 4 type) payload q s) :=
    ⟨rfl, rfl, rfl, hwrites, hrx⟩
  obtain ⟨t, hrun, hend⟩ := h0.run_four
  exact ⟨_, _, t, hsend, rfl, hrun, hend⟩
end

section
/-! Proofs about a prompt acknowledgment (42 R143, R144, R149): the bytes of one wire frame read in a wait, one step each. -/

namespace Sys2Proof.Machine

open Sys2Proof.Spec

section
variable {s : State} {rest : List RxInput}

theorem count_marker_eq_zero {l : List Byte} (h : NoMarker l) : l.count markerByte = 0 := List.count_eq_zero_of_not_mem h

/-- A byte that completes no frame is stored. -/
theorem waitByte_unfinished {b : Byte} (hfits : Fits s 1) (hcount : (s.rxbuf ++ [b]).count markerByte ≤ 1) :
    waitByte b s = .next (s.withRxbuf (s.rxbuf ++ [b])) :=
  waitByte_of_verdict hfits (extractFrames_of_count_le_one hcount) (waitVerdict_noFrame hcount)

/-- The wait goes on with `bytes` stored and `rest` still to come. -/
def State.stored (s : State) (bytes : List Byte) (rest : List RxInput) : State :=
  (s.withRxbuf (s.rxbuf ++ bytes)).withRxIn rest

theorem stored_stored (s : State) (a b : List Byte) (v w : List RxInput) : (s.stored a v).stored b w = s.stored (a ++ b) w := by
  rw [State.stored, State.stored, State.stored, ← List.append_assoc]
  rfl

theorem fits_stored {n : Nat} {bytes : List Byte} (h : Fits s (n + bytes.length)) : Fits (s.stored bytes rest) n := by
  intro cap hcap
  have hroom := h cap hcap
  have hlength : (s.stored bytes rest).rxbuf.length = s.rxbuf.length + bytes.length := List.length_append
  omega

/-- Bytes that complete no frame are stored, one step each. -/
theorem run_unfinished {bytes : List Byte} (harq : s.arqState = .awaitingAck) (hrx : s.chan.rxIn = bytes.map .byte ++ rest)
    (hfits : Fits s bytes.length) (hcount : (s.rxbuf ++ bytes).count markerByte ≤ 1) :
    core.run bytes.length s = .next (s.stored bytes rest) := by
  induction bytes generalizing s with
  | nil =>
    obtain rfl : s.chan.rxIn = rest := hrx
    rw [State.stored, List.append_nil]
    rfl
  | cons b bs ih =>
    rw [← List.singleton_append, ← List.append_assoc] at hcount
    have hfirst : (s.rxbuf ++ [b]).count markerByte ≤ 1 := by
      rw [List.count_append] at hcount
      omega
    have hfit : Fits s 1 := fits_mono hfits (Nat.le_add_left 1 bs.length)
    have hstep : step s = .next (s.stored [b] (bs.map .byte ++ rest)) :=
      (step_of_received_byte harq hrx).trans (waitByte_unfinished (s := s.withRxIn _) hfit hfirst)
    have hmore := ih (s := s.stored [b] (bs.map .byte ++ rest)) harq rfl (fits_stored hfits) hcount
    rw [List.length_cons, run_succ _ hstep, hmore, stored_stored]
    rfl

section
variable {raw : List Byte} {p : Packet} {q : Seq} (hdecode : decodeRaw s.config raw = .ok p) (hq : s.txSeq = some q)
  (hack : p.header.ack = q + 1#3)
include hdecode hq hack

/-- R144: the closing marker of a wire frame that decodes with the expected `ack`. -/
theorem step_acknowledged {pre : List Byte} (harq : s.arqState = .awaitingAck) (hrx : s.chan.rxIn = .byte 0xC0#8 :: rest)
    (hfits : Fits s 1) (hpre : NoMarker pre) (hopen : s.rxbuf = pre ++ 0xC0#8 :: escapedAll raw) :
    step s = .next (((s.withRxbuf []).withRxIn rest).withArq .acked) := by
  have hcuts := cuts_of_closing_marker hpre (noMarker_escapedAll raw) hopen
  have hexec : exec (.pkDecode (wireFrame raw)) s = .next (s.withReply (some (.packet p))) := by
    rw [pkDecode_wireFrame, hdecode, packetReply]
  have hinstr : waitInstr s = .tFrameAck := by
    rw [waitInstr_of_byte hrx, waitVerdict_of_packet hcuts hexec hq, if_pos hack, Verdict.instr]
  rw [step_of_select_run (select_awaitingAck harq), hinstr, exec_tFrameAck_of_cuts hcuts harq hrx hfits hexec hq hack]

variable (hrx : s.chan.rxIn = (wireFrame raw).map .byte ++ rest) (hfits : Fits s (wireFrame raw).length) (hbuf : NoMarker s.rxbuf)
include hrx hfits hbuf

/-- Such a frame is read to its closing marker, and ends the RT.SEND with ok (R143, R144, R149). -/
theorem run_acknowledged (harq : s.arqState = .awaitingAck) :
    core.run ((wireFrame raw).length + 1) s =
      .next ((((s.withRxbuf []).withRxIn rest).withArq .idle).withReply (some .ok)) := by
  have hframe : wireFrame raw = (markerByte :: escapedAll raw) ++ [markerByte] := rfl
  rw [hframe, List.length_append] at hfits ⊢
  rw [hframe, List.map_append, List.append_assoc] at hrx
  have hcount : (s.rxbuf ++ markerByte :: escapedAll raw).count markerByte ≤ 1 := by
    rw [List.count_append, List.count_cons_self, count_marker_eq_zero hbuf, count_marker_eq_zero (noMarker_escapedAll raw)]
  have hfront := run_unfinished harq hrx (fits_mono hfits (Nat.le_add_right _ _)) hcount
  have hroom : Fits s (1 + (markerByte :: escapedAll raw).length) := by rwa [Nat.add_comm]
  have hclose := step_acknowledged (s := s.stored (markerByte :: escapedAll raw) (.byte markerByte :: rest)) hdecode hq hack harq rfl
    (fits_stored hroom) hbuf rfl
  rw [Nat.add_assoc, run_add _ hfront]
  exact (run_succ 1 hclose).trans (run_succ 0 (step_next_of_acked rfl))

/-- The same from `Sending`, with the attempt before it (R142). -/
theorem run_attempt_acknowledged {n : Nat} {f : List Byte} (harq : s.arqState = .sending) (hn : s.attempts = some n)
    (hf : s.txFrame = some f) (hwrite : ∀ a ∈ s.chan.writeAnswers.take 1, a = .ok) :
    core.run ((wireFrame raw).length + 2) s =
      .next (((((s.attempted n f).withRxbuf []).withRxIn rest).withArq .idle).withReply (some .ok)) :=
  (run_succ _ (step_attempted harq hn hf hwrite)).trans
    (run_acknowledged (s := s.attempted n f) hdecode hq hack hrx hfits hbuf rfl)

end

end

end Sys2Proof.Machine

open Sys2Proof.Spec Sys2Proof.Machine

/-- Settles O54: one write, the frame's bytes, and the reply. -/
theorem Sys2Proof.promptAckCompletesTheSend : Obligations.PromptAckCompletesTheSend := by
  intro type payload raw p q rest s harq hq htype hpayload hwrites hfits hbuf hexec hack hrx
  have hsend := sendPacket_idle harq hq (sendDomain_iff.mpr ⟨htype, hpayload⟩)
  have hdecode : decodeRaw s.config raw = .ok p :=
    packetReply_injective (next_withReply_inj.mp ((answerPacket_eq s _).symm.trans hexec))
  refine ⟨_, _, hsend, rfl, ?run⟩
  case run =>
    refine (run_attempt_acknowledged (s := accepted (BitVec.ofNat 4 type) payload q s) hdecode rfl hack hrx hfits hbuf rfl rfl rfl
      hwrites).trans ?_
    rw [← harq]
    rfl
end

section
/-! Proofs about wire bytes executed inside a wait (42 R143, 30 R68; assumption 10): they are the block's own steps on these bytes. -/

namespace Sys2Proof.Machine

open Sys2Proof.Spec

/-- The same result with other inputs still to come. -/
def Result.withRxIn (v : List RxInput) : Result → Result
  | .next t => .next (t.withRxIn v)
  | .fault f => .fault f
  | .refused r => .refused r

section
variable {s : State}

/-- What a received byte does does not depend on the inputs behind it. -/
theorem waitByte_withRxIn (b : Byte) (s : State) (v : List RxInput) :
    waitByte b (s.withRxIn v) = Result.withRxIn v (waitByte b s) := by
  unfold waitByte
  by_cases hfit : fits s [b] = true
  · have hfit' : fits (s.withRxIn v) [b] = true := hfit
    have hv : waitVerdict b (s.withRxIn v) = waitVerdict b s := rfl
    rw [if_pos hfit, if_pos hfit', hv]
    cases waitVerdict b s with
    | notDecoded e => cases e <;> rfl
    | _ => rfl
  · have hfit' : ¬ fits (s.withRxIn v) [b] = true := hfit
    rw [if_neg hfit, if_neg hfit']
    rfl

theorem waitByte_chan {b : Byte} {t : State} (h : waitByte b s = .next t) : t.chan = s.chan := by
  obtain ⟨buf, -, rfl | rfl | rfl⟩ := waitByte_next h <;> rfl

/-- A received byte takes room for one. -/
theorem fits_of_waitByte {b : Byte} {t : State} {n : Nat} (h : waitByte b s = .next t) (hfits : Fits s (n + 1)) : Fits t n := by
  obtain ⟨-, hverdict⟩ := waitByte_verdict h
  have hsame : t.rxbuf = (extractFrames (s.rxbuf ++ [b])).2 ∧ t.config = s.config := by
    obtain rfl | rfl | rfl := applyVerdict_next (fun e he => waitVerdict_error he) hverdict <;> exact ⟨rfl, rfl⟩
  obtain ⟨hbuf, hconfig⟩ := hsame
  intro cap hcap
  have hroom := hfits cap (hconfig ▸ hcap)
  have hcut := extractFrames_length (s.rxbuf ++ [b])
  rw [List.length_append, List.length_singleton] at hcut
  rw [hbuf]
  omega

/-- The state with wire bytes at the head of the channel. -/
def State.delivering (s : State) (bytes : List Byte) : State := s.withRxIn (bytes.map .byte ++ s.chan.rxIn)

/-- R143: the step on the next wire byte is the receive step, the rest staying at the head of the channel. -/
theorem step_delivering (b : Byte) (bs : List Byte) (hwait : s.arqState = .awaitingAck) :
    step (s.delivering (b :: bs)) = Result.withRxIn (bs.map .byte ++ s.chan.rxIn) (waitByte b s) :=
  (step_of_received_byte (s := s.delivering (b :: bs)) hwait rfl).trans (waitByte_withRxIn b s _)

theorem step_delivering_next {b : Byte} {t : State} (bs : List Byte) (hwait : s.arqState = .awaitingAck)
    (h : waitByte b s = .next t) : step (s.delivering (b :: bs)) = .next (t.delivering bs) := by
  rw [step_delivering b bs hwait, h, State.delivering, waitByte_chan h]
  rfl

/-- `bytes` received in a wait are `k` steps of the block with the bytes at the head of the channel: each step but the last stays in
the wait, and where it comes to a next state the rest is unread, the wait over if there is a rest. -/
structure ReadInSteps (s : State) (bytes : List Byte) (r : Result) (k : Nat) : Prop where
  le : k ≤ bytes.length
  run : r = core.run k (s.delivering bytes)
  waits : ∀ j, j < k → ∃ v, core.run j (s.delivering bytes) = .next v ∧ v.arqState = .awaitingAck
  unread : ∀ u, r = .next u →
    u.chan.rxIn = (bytes.drop k).map .byte ++ s.chan.rxIn ∧ (k < bytes.length → u.arqState ≠ .awaitingAck)

/-- The first step of a wait whose byte ends in a stop. -/
theorem ReadInSteps.stopped {b : Byte} {bs : List Byte} {r : Result} (hwait : s.arqState = .awaitingAck)
    (hrun : r = core.run 1 (s.delivering (b :: bs))) (hstop : ∀ u, r ≠ .next u) : ReadInSteps s (b :: bs) r 1 where
  le := Nat.succ_le_succ (Nat.zero_le _)
  run := hrun
  waits j hj := by
    obtain rfl := Nat.lt_one_iff.mp hj
    exact ⟨_, rfl, hwait⟩
  unread u hu := absurd hu (hstop u)

/-- A step that reads the first byte, and the steps that read on from there. -/
theorem ReadInSteps.cons {b : Byte} {bs : List Byte} {t : State} {r : Result} {k : Nat} (hwait : s.arqState = .awaitingAck)
    (hbyte : waitByte b s = .next t) (h : ReadInSteps t bs r k) : ReadInSteps s (b :: bs) r (k + 1) where
  le := Nat.succ_le_succ h.le
  run := h.run.trans (run_succ k (step_delivering_next bs hwait hbyte)).symm
  waits j hj := by
    cases j with
    | zero => exact ⟨_, rfl, hwait⟩
    | succ j =>
      rw [run_succ j (step_delivering_next bs hwait hbyte)]
      exact h.waits j (Nat.lt_of_succ_lt_succ hj)
  unread u hu := by
    obtain ⟨hrx, hend⟩ := h.unread u hu
    rw [waitByte_chan hbyte] at hrx
    exact ⟨hrx, fun hk => hend (Nat.lt_of_succ_lt_succ hk)⟩

/-- Bytes fed to a wait are read in steps, for as long as it lasts. -/
theorem feedWait_readInSteps (bytes : List Byte) (s : State) : ∃ k, ReadInSteps s bytes (feedWait bytes s) k := by
  induction bytes generalizing s with
  | nil =>
    refine ⟨0, Nat.le_refl 0, rfl, fun j hj => absurd hj (Nat.not_lt_zero j), fun u hu => ?_⟩
    cases hu
    exact ⟨rfl, fun h => absurd h (Nat.lt_irrefl 0)⟩
  | cons b bs ih =>
    rw [feedWait]
    by_cases hwait : s.arqState = .awaitingAck
    · rw [if_pos hwait]
      have hstep := step_delivering b bs hwait
      cases hbyte : waitByte b s with
      | next t =>
        obtain ⟨k, hk⟩ := ih t
        exact ⟨k + 1, hk.cons hwait hbyte⟩
      | fault f =>
        rw [hbyte] at hstep
        exact ⟨1, .stopped hwait (run_of_fault 0 hstep).symm (by simp)⟩
      | refused r =>
        rw [hbyte] at hstep
        exact ⟨1, .stopped hwait (run_of_refused 0 hstep).symm (by simp)⟩
    · rw [if_neg hwait]
      refine ⟨0, Nat.zero_le _, rfl, fun j hj => absurd hj (Nat.not_lt_zero j), fun u hu => ?_⟩
      cases hu
      exact ⟨rfl, fun _ => hwait⟩

/-- With a number to compare with and room for the bytes, reading them comes to a next state. -/
theorem feedWait_completes {bytes : List Byte} {q : Seq} (hq : s.txSeq = some q) (hfits : Fits s bytes.length) :
    ∃ u, feedWait bytes s = .next u := by
  induction bytes generalizing s with
  | nil => exact ⟨s, rfl⟩
  | cons b bs ih =>
    rw [feedWait]
    by_cases hwait : s.arqState = .awaitingAck
    · obtain ⟨t, ht⟩ := waitByte_completes b hq (fits_mono hfits (Nat.le_add_left 1 bs.length))
      have hroom : Fits t bs.length := fits_of_waitByte ht hfits
      rw [if_pos hwait, ht]
      exact ih ((waitByte_txSeq ht).trans hq) hroom
    · rw [if_neg hwait]
      exact ⟨_, rfl⟩

/-- R68, R60: in a wait a byte class, a pair or FRAME is its wire bytes fed to the wait. -/
theorem exec_wire_in_wait {i : Instr} {fmt : Format} {bytes : List Byte} (h : encode i = some (fmt, bytes))
    (hfmt : fmt = .wireByte ∨ fmt = .wireBytePair ∨ fmt = .wireFrame) (hwait : s.arqState = .awaitingAck) :
    exec i s = feedWait bytes s := by
  obtain ⟨replyOf, hexec⟩ := exec_of_encode_receives (s := s) h hfmt
  exact hexec.trans (if_pos hwait)

theorem feedWait_singleton (b : Byte) (hwait : s.arqState = .awaitingAck) : feedWait [b] s = step (s.delivering [b]) := by
  rw [step_delivering b [] hwait, feedWait, if_pos hwait]
  cases hbyte : waitByte b s with
  | next t =>
    rw [Result.withRxIn, List.map_nil, List.nil_append, ← waitByte_chan hbyte]
    rfl
  | fault f | refused r => rfl

end

end Sys2Proof.Machine

open Sys2Proof.Spec Sys2Proof.Machine

/-- Settles O10: by the bytes; each is the receive step, which does not look at the inputs behind it. -/
theorem Sys2Proof.wireByteInAWaitIsTheReceiveStep : Obligations.WireByteInAWaitIsTheReceiveStep := by
  refine ⟨fun b s hwait => ⟨?byte, ?literal⟩, fun i fmt bytes s t hencode hfmt hwait ht => ?bytes⟩
  case byte => exact (exec_wire_in_wait (encode_decodeWireByte b) (.inl rfl) hwait).trans (feedWait_singleton b hwait)
  case literal => exact (exec_wire_in_wait (i := .literal b) rfl (.inl rfl) hwait).trans (feedWait_singleton b hwait)
  case bytes =>
    rw [exec_wire_in_wait hencode hfmt hwait]
    obtain ⟨k, hle, hrun, hwaits, hunread⟩ := feedWait_readInSteps bytes s
    subst ht
    exact ⟨⟨k, hle, hrun, hwaits, hunread⟩, fun q hq hfits => feedWait_completes hq hfits⟩
end

section
/-! Proofs about the host's pseudo-operations (43 R171 to R174): what each puts in hand in `Idle`, and the chunks of an image. -/

namespace Sys2Proof.Machine

open Sys2Proof.Spec

/-! ## The pseudo-operations in `Idle` -/

theorem startTasks_idle {s : State} (tasks : State → Result) (harq : s.arqState = .idle) : startTasks tasks s = tasks s := by
  simp only [startTasks, harq]

/-- R172: the packet is accepted behind the host's own writes. -/
theorem exec_sendStartDfu_idle {q : Seq} {s : State} (mode : UpdateMode) (sd bl app : Option Nat) (harq : s.arqState = .idle)
    (hq : s.seqCtr = some q) :
    exec (.sendStartDfu mode sd bl app) s = .next (accepted (BitVec.ofNat 4 typeStartCode) (startPayload mode sd bl app) q
      (s.withHost { s.host with
        tasks := .wait (eraseWait s.config (totalSize sd bl app)) :: s.host.tasks
        total := Free.totalAfterStart s.host.total (totalSize sd bl app)
        softdevice := sd.getD 0 })) := by
  simp only [exec, execSendStartDfu, startTasks_idle _ harq]
  exact sendPacket_idle harq hq (sendDomain_start mode sd bl app)

theorem exec_sendFirmware_idle {c : Session} {s : State} (image : List Byte) (harq : s.arqState = .idle) (hc : s.session = some c) :
    exec (.sendFirmware image) s = .next ((s.withHost { s.host with
      tasks := firmwareTasks s.config c.pktMaxSize image ++ s.host.tasks
      total := Free.totalAfterFirmware s.host.total image.length }).withReply none) := by
  simp only [exec, execSendFirmware, startTasks_idle _ harq, hc, readReg_some]

/-- R174: the expansion is a free value (assumption 24). -/
theorem exec_sendValidateFirmware_idle {s : State} (harq : s.arqState = .idle) :
    exec .sendValidateFirmware s =
      .next (((pushTasks (Free.validateTasks s.freeCount) s).withFreeCount (s.freeCount + 1)).withReply none) := by
  simp only [exec, execSendValidateFirmware, startTasks_idle _ harq]

/-- R174: the expansion is a free value (assumption 24), with the activate wait behind it. -/
theorem exec_sendActivateFirmware_idle {s : State} (harq : s.arqState = .idle) :
    exec .sendActivateFirmware s = .next (((pushTasks
      (Free.activateTasks s.freeCount ++ [.wait (Free.activateWait s.freeCount s.config s.host.total s.host.softdevice)]) s).withFreeCount
        (s.freeCount + 1)).withReply none) := by
  simp only [exec, execSendActivateFirmware, startTasks_idle _ harq]

/-! ## The chunks of an image (R173) -/

theorem lt_ceilDiv_iff {a b k : Nat} (hb : 1 ≤ b) : k < ceilDiv a b ↔ k * b < a := by
  rw [ceilDiv, ← Nat.ceilDiv_eq_add_pred_div, ← not_le, ceilDiv_le_iff_le_mul hb, not_le, Nat.mul_comm]

/-- R173: the chunks of an image, in order (`firmwareTasks_of_nonempty` says which tasks they stand for). -/
def imageChunks (size : Nat) (image : List Byte) : List (List Byte) := (List.range (chunkCount size image)).map (chunk size image)

/-- R173: the tasks of each chunk, in order. -/
def chunkGroups (cfg : Config) (size : Nat) (image : List Byte) : List (List HostTask) :=
  (List.range (chunkCount size image)).map (chunkTasks cfg size image)

@[simp] theorem imageChunks_length (size : Nat) (image : List Byte) : (imageChunks size image).length = chunkCount size image := by
  simp [imageChunks]

@[simp] theorem chunkGroups_length (cfg : Config) (size : Nat) (image : List Byte) :
    (chunkGroups cfg size image).length = chunkCount size image := by
  simp [chunkGroups]

/-- The first `n` chunks are the first `n * size` bytes. -/
theorem flatten_chunks (size : Nat) (image : List Byte) (n : Nat) :
    ((List.range n).map (chunk size image)).flatten = image.take (n * size) := by
  induction n with
  | zero => simp
  | succ n ih =>
    rw [List.range_succ, List.map_append, List.flatten_append, ih, Nat.succ_mul, List.take_add]
    simp [chunk]

section
variable {size : Nat} (hsize : 1 ≤ size) {image : List Byte}
include hsize

/-- Together the chunks reach the image's end. -/
theorem imageChunks_flatten : (imageChunks size image).flatten = image := by
  have hend : image.length ≤ chunkCount size image * size := Nat.not_lt.mp fun h => Nat.lt_irrefl _ ((lt_ceilDiv_iff hsize).mpr h)
  rw [imageChunks, flatten_chunks, List.take_of_length_le hend]

theorem chunkCount_nil : chunkCount size [] = 0 :=
  Nat.eq_zero_of_not_pos fun h => Nat.not_lt_zero _ ((lt_ceilDiv_iff hsize).mp h)

/-- A chunk begins before the image's end. -/
theorem imageChunks_length_bounds {x : List Byte} (hx : x ∈ imageChunks size image) : 1 ≤ x.length ∧ x.length ≤ size := by
  obtain ⟨k, hk, rfl⟩ := List.mem_map.mp hx
  have hstart : k * size < image.length := (lt_ceilDiv_iff hsize).mp (List.mem_range.mp hk)
  simp only [chunk, List.length_take, List.length_drop]
  omega

/-- Behind a chunk that is not the last there is another, so it is full. -/
theorem imageChunks_full {x : List Byte} (hx : x ∈ (imageChunks size image).dropLast) : x.length = size := by
  obtain ⟨k, hk, rfl⟩ := List.mem_iff_getElem.mp hx
  rw [List.length_dropLast, imageChunks_length] at hk
  have hnext : (k + 1) * size < image.length := (lt_ceilDiv_iff hsize).mp (Nat.add_lt_of_lt_sub hk)
  rw [Nat.succ_mul] at hnext
  simp only [List.getElem_dropLast, imageChunks, List.getElem_map, List.getElem_range, chunk, List.length_take, List.length_drop]
  omega

end

/-! ## The tasks of an image (R173) -/

theorem pageWriteTime_spec (cfg : Config) : PageWriteTime cfg (pageWriteTime cfg) :=
  ⟨(pageWriteTime_bounds cfg).1, (pageWriteTime_bounds cfg).2, pageWriteTime_whole⟩

/-- The progress event follows each packet; the pacing wait of every eighth comes before or after it (assumption 23). -/
theorem chunkTasks_packetTasks (cfg : Config) (size : Nat) (image : List Byte) (k : Nat) :
    PacketTasks (pageWriteTime cfg) (k + 1) (chunkCount size image) (chunk size image k) (chunkTasks cfg size image k) := by
  refine ⟨_, rfl, fun hother => if_neg hother, fun heighth => ?_⟩
  rw [afterPacket, if_pos heighth]
  cases Free.paceBeforeProgress (k + 1) with
  | true => exact .inl rfl
  | false => exact .inr rfl

theorem firmwareTasks_nil (cfg : Config) {size : Nat} (hsize : 1 ≤ size) :
    firmwareTasks cfg size [] = [] ∨ firmwareTasks cfg size [] = [.send 5 []] := by
  rw [firmwareTasks, chunkCount_nil hsize]
  cases Free.emptyImageSendsStop with
  | true => exact .inr rfl
  | false => exact .inl rfl

theorem firmwareTasks_of_nonempty (cfg : Config) (size : Nat) {image : List Byte} (h : image ≠ []) :
    firmwareTasks cfg size image = (chunkGroups cfg size image).flatten ++ [.send 5 []] := by
  simp [firmwareTasks, h, chunkGroups, List.flatMap_def, typeStopDataCode]

end Sys2Proof.Machine

open Sys2Proof.Spec Sys2Proof.Machine

/-- Settles O37: chunk `k` starts at byte `k * size`, so the chunks cover the image in order and only the last can be short. -/
theorem Sys2Proof.sendFirmwareQueuesTheChunks : Obligations.SendFirmwareQueuesTheChunks := by
  intro image c s harq hc hsize
  refine ⟨firmwareTasks s.config c.pktMaxSize image, Free.totalAfterFirmware s.host.total image.length, pageWriteTime s.config,
    pageWriteTime_spec s.config, exec_sendFirmware_idle image harq hc, ?empty, fun himage => ?chunks⟩
  case empty =>
    rintro rfl
    exact firmwareTasks_nil s.config hsize
  case chunks =>
    refine ⟨imageChunks c.pktMaxSize image, chunkGroups s.config c.pktMaxSize image, imageChunks_flatten hsize,
      fun x hx => imageChunks_length_bounds hsize hx, fun x hx => imageChunks_full hsize hx, by simp, fun k hk hk' => ?group,
      firmwareTasks_of_nonempty s.config c.pktMaxSize himage⟩
    case group =>
      simp only [imageChunks, chunkGroups, List.getElem_map, List.getElem_range, List.length_map, List.length_range]
      exact chunkTasks_packetTasks s.config c.pktMaxSize image k

/-- Settles O35: the padded payload of at most 512 bytes is in RT.SEND's range. -/
theorem Sys2Proof.sendInitPacketPadsAndSends : Obligations.SendInitPacketPadsAndSends := by
  intro bytes s
  refine ⟨rfl, fun q harq hq hlength => ?accepts⟩
  case accepts =>
    have hpadded : (initPayload bytes).length ≤ 512 := by
      simp only [initPayload, List.length_append, List.length_cons, List.length_nil]
      omega
    exact ⟨_, sendPacket_idle harq hq (sendDomain_iff.mpr ⟨by decide, hpadded⟩), rfl, rfl⟩

/-- Settles O36: acceptance does not look at the host's side, which the call has written before. -/
theorem Sys2Proof.sendStartDfuQueuesTheEraseWait : Obligations.SendStartDfuQueuesTheEraseWait := by
  intro mode sd bl app q s harq hq
  have hdomain := sendDomain_start mode sd bl app
  exact ⟨startPayload mode sd bl app, Free.totalAfterStart s.host.total (totalSize sd bl app),
    eraseWait s.config (totalSize sd bl app), _, (sendDomain_iff.mp hdomain).2, rfl, sendPacket_idle harq hq hdomain, rfl,
    exec_sendStartDfu_idle mode sd bl app harq hq⟩

/-- Settles O38: in `Idle` both put their free expansion in front of the host's tasks. -/
theorem Sys2Proof.validateAndActivateQueueTheirExpansions : Obligations.ValidateAndActivateQueueTheirExpansions :=
  fun _ harq => ⟨⟨_, _, exec_sendValidateFirmware_idle harq⟩, ⟨_, _, _, exec_sendActivateFirmware_idle harq⟩⟩
end

section
/-! Proofs about an environment whose script is empty (assumption 2): the channel's calls answer the model's default. -/

namespace Sys2Proof.Machine

variable {s : State}

theorem openChannel_unscripted (h : s.chan.openAnswers = []) : openChannel s = (true, s.withChan { s.chan with isOpen := true }) := by
  simp only [openChannel, h]

theorem writeChannel_unscripted (bs : List Byte) (h : s.chan.writeAnswers = []) :
    writeChannel bs s = (true, s.withChan { s.chan with tx := s.chan.tx ++ bs }) := by
  simp only [writeChannel, h]

theorem readChannel_unscripted (h : s.chan.rxIn = []) : readChannel s = (.nothing, s) := by
  simp only [readChannel, h]

end Sys2Proof.Machine

open Sys2Proof.Machine

/-- Settles O40: each call by its answer at the empty list. -/
theorem Sys2Proof.emptyScriptsAnswerTheDefault : Obligations.EmptyScriptsAnswerTheDefault := by
  intro t n k f bs s
  refine ⟨fun hopen harq ht hn hmax => ?opens, fun hwrite => ⟨?writes, fun harq hk hf => ?transmits⟩,
    fun hrx => ⟨?reads, fun harq => ?waits⟩⟩
  case opens => exact exec_rtOpen harq (openDomain_iff.mpr ⟨ht, hn, hmax⟩) (openChannel_unscripted hopen)
  case writes => exact exec_chanWrite (writeChannel_unscripted bs hwrite)
  case transmits => exact exec_tTransmit harq hk hf (writeChannel_unscripted f hwrite)
  case reads => exact exec_chanRead (readChannel_unscripted hrx)
  case waits => exact exec_tRxByte_unscripted harq hrx
end

section
/-! Proofs about the pseudo-operation in hand (30_encoding R73; 43 R173, R175): outside an RT.SEND its tasks come before the program. -/

namespace Sys2Proof.Machine

variable {s : State}

/-- In `Idle` the next task is taken and run. -/
theorem select_of_task {task : HostTask} {ts : List HostTask} (harq : s.arqState = .idle) (htasks : s.host.tasks = task :: ts) :
    select s = runTask task (s.withHost { s.host with tasks := ts }) := by
  simp only [select, harq, hostTurn, htasks, if_true]

theorem step_of_select_stay {u : State} (h : select s = .stay u) : step s = .next u := by
  simp only [step, h]

/-- R175: a session that has failed or closed aborts the pseudo-operation. -/
theorem step_aborts_tasks (harq : s.arqState = .failed ∨ s.arqState = .closed) (htasks : s.host.tasks ≠ []) :
    step s = .next (s.withHost { s.host with tasks := [] }) := by
  obtain ⟨task, ts, htasks⟩ := List.exists_cons_of_ne_nil htasks
  apply step_of_select_stay
  obtain harq | harq := harq <;> simp [select, harq, hostTurn, htasks]

/-- R173: the exact share where it is whole, else that share rounded down or up (assumption 23). -/
theorem progressPercent_spec (k n : Nat) :
    (progressPercent k n = k * 100 / n ∨ progressPercent k n = k * 100 / n + 1) ∧
      (k * 100 % n = 0 → progressPercent k n = k * 100 / n) := by
  unfold progressPercent
  split
  case isTrue hup =>
    have hfraction : k * 100 % n ≠ 0 := of_decide_eq_true (Bool.and_eq_true_iff.mp hup).1
    exact ⟨.inr rfl, fun hwhole => absurd hwhole hfraction⟩
  case isFalse => exact ⟨.inl rfl, fun _ => rfl⟩

end Sys2Proof.Machine

open Sys2Proof.Machine

/-- Settles O43: by the next task; in `Failed` and `Closed` none is run. -/
theorem Sys2Proof.stepRunsTheHostTasks : Obligations.StepRunsTheHostTasks := by
  intro s ts
  refine ⟨fun type payload harq htasks => ?send, fun time harq htasks => ?wait, fun k n harq htasks => ?progress, ?abort⟩
  case send => exact step_of_select_run (select_of_task harq htasks)
  case wait => exact step_of_select_stay (select_of_task harq htasks)
  case progress =>
    obtain ⟨hshare, hwhole⟩ := progressPercent_spec k n
    exact ⟨progressPercent k n, Free.progressDone k n, Free.message s.freeCount, s.freeCount + 1, hshare, hwhole,
      step_of_select_stay (select_of_task harq htasks)⟩
  case abort => exact step_aborts_tasks
end
